-- ==== Sys2Proof/Word.lean ====
section
/-!
DEFINITION. The word types of the engine: the command word (30_encoding.md R60), the character
(92_eei_decisions.md D5), the letter index and the slot number (00_scope.md R5, R7).
-/

namespace Sys2Proof

/-- A command word `cmd[31:0]` (R60). -/
abbrev Word := BitVec 32

/-- A character: 8 bits (R6 `CHAR_W`). -/
abbrev Byte := BitVec 8

/-- The offset operand of SETROT and SETRING: 16 bits, two's complement (R6 `VAL_W`). -/
abbrev Offset := BitVec 16

/-- A letter index, rotation or ring setting: an integer in `[0,26)` (R5 `NLETTERS`, R7). -/
abbrev Letter := Fin 26

/-- A rack slot: 0 (fast, rightmost) to 3 (slowest, leftmost) (R5 `NSLOTS`). -/
abbrev Slot := Fin 4

end Sys2Proof
end

