-- ==== Sys2Proof/Syntax.lean ====
section
/-!
DEFINITION. The commands of the engine as syntax: the names an operand can hold (00_scope.md R5) and
one constructor per row of spec/opcode_table.json (30_encoding.md R62, R63).
-/

namespace Sys2Proof

/-- The operating mode (10_state.md R15): `m3` is code 0, `m4` is code 1. -/
inductive Mode where
  | m3
  | m4
deriving DecidableEq, Repr

/-- The ten rotor identities, in the order of their codes 0..9 (10_state.md R16). -/
inductive RotorId where
  | i
  | ii
  | iii
  | iv
  | v
  | vi
  | vii
  | viii
  | beta
  | gamma
deriving DecidableEq, Repr

/-- The four reflector identities, in the order of their codes 0..3 (10_state.md R18). -/
inductive ReflectorId where
  | b
  | c
  | bThin
  | cThin
deriving DecidableEq, Repr

/-- The mnemonics of spec/opcode_table.json (30_encoding.md R62). -/
inductive Mnemonic where
  | ENC
  | WIRE
  | LDROT
  | SETROT
  | SETRING
  | LDREF
  | SETMODE
  | RESET
deriving DecidableEq, Repr

/-- The commands, one constructor per row of the opcode table. LDROT has two rows, hence two
constructors (log entry 10, DESIGN CHOICE, safe). -/
inductive Instr where
  /-- ENC `ch` (R100, format C). -/
  | enc (ch : Byte)
  /-- WIRE `ch1`, `ch2` (R110, format CC). -/
  | wire (ch1 ch2 : Byte)
  /-- LDROT `slot`, `rotor`, the row of the rotor codes 0..7 (R120, format SK). -/
  | ldrot (slot : Slot) (rotor : RotorId)
  /-- LDROT `slot`, `rotor`, the row of the rotor codes 8..9 (R120, format SK). -/
  | ldrotBetaGamma (slot : Slot) (rotor : RotorId)
  /-- SETROT `slot`, `val` (R122, format SV). -/
  | setrot (slot : Slot) (val : Offset)
  /-- SETRING `slot`, `val` (R124, format SV). -/
  | setring (slot : Slot) (val : Offset)
  /-- LDREF `refl` (R126, format K2). -/
  | ldref (refl : ReflectorId)
  /-- SETMODE `m` (R128, format K1). -/
  | setmode (m : Mode)
  /-- RESET (R130, format Z). -/
  | reset
deriving DecidableEq, Repr

/-- The mnemonic of a command's opcode-table row. -/
def Instr.mnemonic : Instr → Mnemonic
  | .enc _ => .ENC
  | .wire _ _ => .WIRE
  | .ldrot _ _ => .LDROT
  | .ldrotBetaGamma _ _ => .LDROT
  | .setrot _ _ => .SETROT
  | .setring _ _ => .SETRING
  | .ldref _ => .LDREF
  | .setmode _ => .SETMODE
  | .reset => .RESET

end Sys2Proof
end

