-- ==== Sys2Proof/WellFormed.lean ====
section
/-!
DEFINITION. Which syntax terms stand for a command word. Every operand has a type that admits exactly the
values its field encodes, but for the rotor of the two LDROT rows: the first row encodes the codes 0..7,
the second the codes 8..9 (30_encoding.md R62).
-/

namespace Sys2Proof

/-- The rotors Beta and Gamma, which only slot 3 accepts (10_state.md R16). -/
def RotorId.isBetaGamma : RotorId → Bool
  | .i => false
  | .ii => false
  | .iii => false
  | .iv => false
  | .v => false
  | .vi => false
  | .vii => false
  | .viii => false
  | .beta => true
  | .gamma => true

/-- A term that some command word encodes: each LDROT row with a rotor of that row. -/
def Instr.wellFormed : Instr → Bool
  | .enc _ => true
  | .wire _ _ => true
  | .ldrot _ rotor => !rotor.isBetaGamma
  | .ldrotBetaGamma _ rotor => rotor.isBetaGamma
  | .setrot _ _ => true
  | .setring _ _ => true
  | .ldref _ => true
  | .setmode _ => true
  | .reset => true

end Sys2Proof
end

