-- ==== Sys2Proof/Decode.lean ====
section
/-!
DEFINITION. Decoding a command word and encoding a command, from the same encoding tables of
30_encoding.md R60 to R66. Decoding is total on every 32-bit word and rejects by name.
-/

namespace Sys2Proof

/-! ## Operand codes (00_scope.md R5, 10_state.md R15, R16, R18) -/

/-- The mode code: 0 = M3, 1 = M4. -/
def Mode.code : Mode → Nat
  | .m3 => 0
  | .m4 => 1

/-- The mode of a 1-bit field. -/
def Mode.ofBit (b : Bool) : Mode :=
  if b then .m4 else .m3

/-- The rotor code: I..VIII = 0..7, Beta = 8, Gamma = 9. -/
def RotorId.code : RotorId → Nat
  | .i => 0
  | .ii => 1
  | .iii => 2
  | .iv => 3
  | .v => 4
  | .vi => 5
  | .vii => 6
  | .viii => 7
  | .beta => 8
  | .gamma => 9

/-- The rotor of a code; the codes from 10 on name none. -/
def RotorId.ofCode : Nat → Option RotorId
  | 0 => some .i
  | 1 => some .ii
  | 2 => some .iii
  | 3 => some .iv
  | 4 => some .v
  | 5 => some .vi
  | 6 => some .vii
  | 7 => some .viii
  | 8 => some .beta
  | 9 => some .gamma
  | _ => none

/-- The reflector code: 0 = B, 1 = C, 2 = B-thin, 3 = C-thin. -/
def ReflectorId.code : ReflectorId → Nat
  | .b => 0
  | .c => 1
  | .bThin => 2
  | .cThin => 3

/-- The reflector of a 2-bit code: bit 1 is the thin bit, bit 0 selects C (R18). -/
def ReflectorId.ofBits (thin c : Bool) : ReflectorId :=
  if thin then (if c then .cThin else .bThin) else (if c then .c else .b)

/-! ## The three fields of a command word (R60) -/

/-- `op` = `cmd[31:24]`. -/
def fieldOp (w : Word) : Byte := w.extractLsb' 24 8

/-- `a` = `cmd[23:16]`. -/
def fieldA (w : Word) : Byte := w.extractLsb' 16 8

/-- `b` = `cmd[15:0]`. -/
def fieldB (w : Word) : BitVec 16 := w.extractLsb' 0 16

/-- The word with the fields `op`, `a`, `b`. -/
def wordOf (op a : Byte) (b : BitVec 16) : Word := (op ++ a) ++ b

/-- `b[15:8]`, zero in the formats C and CC. -/
def highByte (b : BitVec 16) : Byte := b.extractLsb' 8 8

/-- `b[7:0]`, the character of the formats C and CC. -/
def lowByte (b : BitVec 16) : Byte := b.extractLsb' 0 8

/-- `a[7:2]`, zero in the formats SK and SV. -/
def aboveSlot (a : Byte) : BitVec 6 := a.extractLsb' 2 6

/-- The slot of a 2-bit field. -/
def slotOfBits (x : BitVec 2) : Slot := ⟨x.toNat, x.isLt⟩

/-- `slot` = `a[1:0]` = `cmd[17:16]`. -/
def slotOf (a : Byte) : Slot := slotOfBits (a.extractLsb' 0 2)

/-! ## Decoding (R61 to R66) -/

/-- Why a word is illegal, the three reasons of R66. None of them is observable (the response is the
same), so the order in which they are tested is a DESIGN CHOICE, safe (log entry 11). -/
inductive IllegalWord where
  /-- The opcode is not 0x01..0x08. -/
  | unknownOpcode
  /-- A must-be-zero bit of the format is 1. -/
  | mustBeZeroBit
  /-- An LDROT with rotor code 10..15. -/
  | rotorCode
deriving DecidableEq, Repr

/-- ENC, format C: `a` = 0, `b[15:8]` = 0, `b[7:0]` = `ch`. -/
def decodeEnc (a : Byte) (b : BitVec 16) : Except IllegalWord Instr :=
  if a = 0#8 ∧ highByte b = 0#8 then .ok (.enc (lowByte b)) else .error .mustBeZeroBit

/-- WIRE, format CC: `a` = `ch1`, `b[15:8]` = 0, `b[7:0]` = `ch2`. -/
def decodeWire (a : Byte) (b : BitVec 16) : Except IllegalWord Instr :=
  if highByte b = 0#8 then .ok (.wire a (lowByte b)) else .error .mustBeZeroBit

/-- The LDROT command of a slot and a rotor, in the constructor of the rotor's opcode-table row. -/
def ldrotOf (slot : Slot) (rotor : RotorId) : Instr :=
  if rotor.isBetaGamma then .ldrotBetaGamma slot rotor else .ldrot slot rotor

/-- LDROT, format SK: `a[7:2]` = 0, `b[15:4]` = 0, `b[3:0]` = `code` with `code <= 9`. -/
def decodeLdrot (a : Byte) (b : BitVec 16) : Except IllegalWord Instr :=
  if aboveSlot a = 0#6 ∧ b.extractLsb' 4 12 = 0#12 then
    match RotorId.ofCode (b.extractLsb' 0 4).toNat with
    | some rotor => .ok (ldrotOf (slotOf a) rotor)
    | none => .error .rotorCode
  else .error .mustBeZeroBit

/-- SETROT, format SV: `a[7:2]` = 0, `b` = `val`. -/
def decodeSetrot (a : Byte) (b : BitVec 16) : Except IllegalWord Instr :=
  if aboveSlot a = 0#6 then .ok (.setrot (slotOf a) b) else .error .mustBeZeroBit

/-- SETRING, format SV: `a[7:2]` = 0, `b` = `val`. -/
def decodeSetring (a : Byte) (b : BitVec 16) : Except IllegalWord Instr :=
  if aboveSlot a = 0#6 then .ok (.setring (slotOf a) b) else .error .mustBeZeroBit

/-- LDREF, format K2: `a` = 0, `b[15:2]` = 0, `b[1:0]` = `code`. -/
def decodeLdref (a : Byte) (b : BitVec 16) : Except IllegalWord Instr :=
  if a = 0#8 ∧ b.extractLsb' 2 14 = 0#14 then .ok (.ldref (ReflectorId.ofBits (b.getLsbD 1) (b.getLsbD 0)))
  else .error .mustBeZeroBit

/-- SETMODE, format K1: `a` = 0, `b[15:1]` = 0, `b[0]` = `m`. -/
def decodeSetmode (a : Byte) (b : BitVec 16) : Except IllegalWord Instr :=
  if a = 0#8 ∧ b.extractLsb' 1 15 = 0#15 then .ok (.setmode (Mode.ofBit (b.getLsbD 0)))
  else .error .mustBeZeroBit

/-- RESET, format Z: `a` = 0, `b` = 0. -/
def decodeReset (a : Byte) (b : BitVec 16) : Except IllegalWord Instr :=
  if a = 0#8 ∧ b = 0#16 then .ok .reset else .error .mustBeZeroBit

/-- `decode` of R61: the command a word encodes, or why it is illegal. -/
def decode (w : Word) : Except IllegalWord Instr :=
  match (fieldOp w).toNat with
  | 0x01 => decodeEnc (fieldA w) (fieldB w)
  | 0x02 => decodeWire (fieldA w) (fieldB w)
  | 0x03 => decodeLdrot (fieldA w) (fieldB w)
  | 0x04 => decodeSetrot (fieldA w) (fieldB w)
  | 0x05 => decodeSetring (fieldA w) (fieldB w)
  | 0x06 => decodeLdref (fieldA w) (fieldB w)
  | 0x07 => decodeSetmode (fieldA w) (fieldB w)
  | 0x08 => decodeReset (fieldA w) (fieldB w)
  | _ => .error .unknownOpcode

/-- What the decoder reads from a word of `nbits` bits numbered as the opcode table numbers them, which is
the numbering of R60; bits above `nbits` are 0. A command is one parallel 32-bit value without byte order
(20_memory.md R46), so nothing longer than 32 bits is a command (log entry 14, DESIGN CHOICE, safe). -/
def decodeTableWord (nbits w : Nat) : Option Instr :=
  if nbits ≤ 32 then
    match decode (BitVec.ofNat 32 (w % 2 ^ nbits)) with
    | .ok instr => some instr
    | .error _ => none
  else none

/-! ## Encoding (R62, R63, R70) -/

/-- `a` of the formats SK and SV: the slot in the two low bits. -/
def slotField (slot : Slot) : Byte := BitVec.ofNat 8 slot.val

/-- `b` of the formats C and CC: the character in the low byte. -/
def charField (ch : Byte) : BitVec 16 := 0#8 ++ ch

/-- The word of a command. -/
def encode : Instr → Word
  | .enc ch => wordOf 0x01 0 (charField ch)
  | .wire ch1 ch2 => wordOf 0x02 ch1 (charField ch2)
  | .ldrot slot rotor => wordOf 0x03 (slotField slot) (BitVec.ofNat 16 rotor.code)
  | .ldrotBetaGamma slot rotor => wordOf 0x03 (slotField slot) (BitVec.ofNat 16 rotor.code)
  | .setrot slot val => wordOf 0x04 (slotField slot) val
  | .setring slot val => wordOf 0x05 (slotField slot) val
  | .ldref refl => wordOf 0x06 0 (BitVec.ofNat 16 refl.code)
  | .setmode m => wordOf 0x07 0 (BitVec.ofNat 16 m.code)
  | .reset => wordOf 0x08 0 0

/-! ## The opcode table as the spec prints it (R62, R65) -/

/-- One row of the opcode table: a word belongs to it exactly when `(cmd AND mask) = match`. -/
structure OpcodeRow where
  mnemonic : Mnemonic
  mask : Word
  pattern : Word
deriving DecidableEq, Repr

/-- A word satisfies a row (R61). -/
def OpcodeRow.admits (row : OpcodeRow) (w : Word) : Bool := w &&& row.mask == row.pattern

/-- The nine rows of R62. -/
def opcodeTable : List OpcodeRow :=
  [ ⟨.ENC, 0xFFFFFF00, 0x01000000⟩,
    ⟨.WIRE, 0xFF00FF00, 0x02000000⟩,
    ⟨.LDROT, 0xFFFCFFF8, 0x03000000⟩,
    ⟨.LDROT, 0xFFFCFFFE, 0x03000008⟩,
    ⟨.SETROT, 0xFFFC0000, 0x04000000⟩,
    ⟨.SETRING, 0xFFFC0000, 0x05000000⟩,
    ⟨.LDREF, 0xFFFFFFFC, 0x06000000⟩,
    ⟨.SETMODE, 0xFFFFFFFE, 0x07000000⟩,
    ⟨.RESET, 0xFFFFFFFF, 0x08000000⟩ ]

end Sys2Proof
end

