-- ==== Sys2Proof/Machine/Operands.lean ====
section
/-!
DEFINITION. Operand arithmetic: letter indices modulo 26 (40_wheel_math.md R85), the signed offset operand of
SETROT and SETRING (30_encoding.md R64), characters (40_wheel_math.md R86), and the compatibility of rotors with
slots and of reflectors with modes (10_state.md R16, R18).
-/

namespace Sys2Proof.Machine

/-! ## Letter arithmetic (R85) -/

/-- `(x + y) mod 26` (R85 A2). -/
def addLetter (x y : Letter) : Letter :=
  ⟨(x.val + y.val) % 26, Nat.mod_lt _ (by decide)⟩

/-- `(x - y + 26) mod 26` (R85 A3), written without a negative intermediate. -/
def subLetter (x y : Letter) : Letter :=
  ⟨(x.val + 26 - y.val) % 26, Nat.mod_lt _ (by decide)⟩

/-- The increment of a rotation, `(r + 1) mod 26` (R85 A4). -/
def nextLetter (r : Letter) : Letter := addLetter r 1

/-- The floored modulus `v - 26 * floor(v / 26)` of any integer (R85 A5). -/
def fmod26 (v : Int) : Letter :=
  ⟨(v - 26 * Int.fdiv v 26).toNat, by
    have h := Int.mul_fdiv_add_fmod v 26
    have h0 := Int.fmod_nonneg_of_pos v (b := 26) (by decide)
    have h1 := Int.fmod_lt_of_pos v (b := 26) (by decide)
    omega⟩

/-- The value SETROT and SETRING store: `fmod26(sext_16(val))` (R64, R122, R124). -/
def offsetLetter (val : Offset) : Letter := fmod26 val.toInt

/-! ## Characters (R86) -/

/-- `'A'..'Z'`. -/
def isUpper (ch : Byte) : Bool := 0x41 ≤ ch.toNat && ch.toNat ≤ 0x5A

/-- `'a'..'z'`. -/
def isLower (ch : Byte) : Bool := 0x61 ≤ ch.toNat && ch.toNat ≤ 0x7A

/-- `is_letter` (R86). -/
def isLetter (ch : Byte) : Bool := isUpper ch || isLower ch

/-- `idx` (R86), defined on letters only: both cases normalise to the same index. -/
def letterIndex (ch : Byte) : Option Letter :=
  if h : isUpper ch then
    some ⟨ch.toNat - 0x41, by simp [isUpper] at h; omega⟩
  else if h : isLower ch then
    some ⟨ch.toNat - 0x61, by simp [isLower] at h; omega⟩
  else none

/-- `chr` (R86): always upper case. -/
def letterChar (i : Letter) : Byte := BitVec.ofNat 8 (0x41 + i.val)

/-! ## Compatibility -/

/-- The slots a rotor may stand in: slot 3 for Beta and Gamma, slots 0..2 for I..VIII (R16, R120). -/
def rotorFitsSlot (slot : Slot) (rotor : RotorId) : Bool :=
  if slot = 3 then rotor.isBetaGamma else !rotor.isBetaGamma

/-- Bit 1 of a reflector code, the thin bit (R18). -/
def reflectorIsThin : ReflectorId → Bool
  | .b => false
  | .c => false
  | .bThin => true
  | .cThin => true

/-- Bit 0 of a reflector code: B (0) or C (1) (R18). -/
def reflectorIsC : ReflectorId → Bool
  | .b => false
  | .c => true
  | .bThin => false
  | .cThin => true

/-- The mode bit: 1 in M4 (R15). -/
def modeIsM4 : Mode → Bool
  | .m3 => false
  | .m4 => true

/-- A reflector may be loaded in a mode when its thin bit equals the mode bit (R126). -/
def reflectorFitsMode (mode : Mode) (refl : ReflectorId) : Bool :=
  reflectorIsThin refl == modeIsM4 mode

/-- `{m, reflector_id[0]}`: the reflector itself or its counterpart, with the thin bit of the mode (R128). -/
def reflectorForMode (mode : Mode) (refl : ReflectorId) : ReflectorId :=
  ReflectorId.ofBits (modeIsM4 mode) (reflectorIsC refl)

/-- The active slots, fast to slow: `N(mode)` of them (00_scope.md R5). -/
def activeSlots : Mode → List Slot
  | .m3 => [0, 1, 2]
  | .m4 => [0, 1, 2, 3]

end Sys2Proof.Machine
end

