-- ==== Sys2Proof/Machine/State.lean ====
section
/-!
DEFINITION. The state of the engine (10_state.md R10), its value after reset (R27), and the reasons a step can
stop. State is plain data; every field has a legal-value type, as R10 recommends.
-/

namespace Sys2Proof.Machine

/-- The duties of the host that the engine assumes (70_reset_and_hazards.md R166). A third one, that `rst` has
been applied once before the first command, is told by `State.hasBeenReset`. -/
inductive HostDuty where
  /-- One host drives the command port. -/
  | singleDriver
  /-- `cmd` and `cmd_valid` are stable around the clock edge. -/
  | stablePins
deriving DecidableEq, Repr

/-- What stands on the engine's input ports at one rising edge of `clk` (10_state.md R23). -/
inductive PortInput where
  /-- The pins hold these levels. -/
  | driven (rst cmdValid : Bool) (cmd : Word)
  /-- The host breaks a duty at this edge, so the pins have no defined level. -/
  | broken (duty : HostDuty)
deriving DecidableEq, Repr

/-- The response of one command (R24): the character and the illegal flag. -/
structure Response where
  char : Byte
  illegal : Bool
deriving DecidableEq, Repr

/-- The architectural state (R10), then the model's own two fields. -/
structure State where
  /-- `mode` (R15). -/
  mode : Mode
  /-- `rotor_id[0..3]` (R16). -/
  rotorId : Vector RotorId 4
  /-- `rotation[0..3]` (R12). -/
  rotation : Vector Letter 4
  /-- `ring[0..3]` (R17). -/
  ring : Vector Letter 4
  /-- `reflector_id` (R18). -/
  reflectorId : ReflectorId
  /-- `plug[0..25]` (R19). -/
  plug : Vector Letter 26
  /-- `resp_valid` (R24, R26). -/
  respValid : Bool
  /-- `resp_char` (R24, R26). -/
  respChar : Byte
  /-- `resp_illegal` (R24, R26). -/
  respIllegal : Bool
  /-- MODEL's own: `rst` has been applied since power-up (70_reset_and_hazards.md R160; log entry 3). -/
  hasBeenReset : Bool
  /-- MODEL's own: what the host drives at the coming edges, the next edge first (R26; log entry 1). -/
  inputs : List PortInput
deriving DecidableEq, Repr

/-- The engine raises no exception (60_exceptions.md R140), so there is no fault: a closed type without
constructors. Nothing raises one; safe. -/
inductive Fault where
deriving DecidableEq, Repr

/-- Why the model gives a step no meaning. -/
inductive Refusal where
  /-- An instruction without a meaning in this model; raised by `exec`'s refused arms only (there are none).
  Safe: the model stops where the engine goes on. -/
  | notModelled (mnemonic : String)
  /-- An edge other than a pin reset before the first pin reset after power-up (R147, R160); raised by
  `clockEdge`. Safe: no rule of the spec applies there. -/
  | notReset
  /-- The host breaks a duty of R166; raised by `clockEdge`. Safe: no rule covers the case. -/
  | hostDutyBroken (duty : HostDuty)
deriving DecidableEq, Repr

/-- The state right after reset (R27): M3; rotors III, II, I, Beta; all offsets 0; reflector B; the identity
plugboard; response registers 0. The host's inputs are none (log entry 1, DESIGN CHOICE). -/
def State.reset : State where
  mode := .m3
  rotorId := #v[.iii, .ii, .i, .beta]
  rotation := #v[0, 0, 0, 0]
  ring := #v[0, 0, 0, 0]
  reflectorId := .b
  plug := #v[0, 1, 2, 3, 4, 5, 6, 7, 8, 9, 10, 11, 12, 13, 14, 15, 16, 17, 18, 19, 20, 21, 22, 23, 24, 25]
  respValid := false
  respChar := 0x00
  respIllegal := false
  hasBeenReset := true
  inputs := []

end Sys2Proof.Machine
end

