-- ==== Sys2Proof/Machine/Ops.lean ====
section
/-!
DEFINITION. The named operations over the registers: every write of a command goes through one of them
(10_state.md R29). There is no memory but the plugboard file (20_memory.md R40) and no exception to take or to
return from (60_exceptions.md R140, R145, R146): where another machine would trap, a command leaves the registers
as they are and its response says no more (Machine/Flags.lean).
-/

namespace Sys2Proof.Machine

/-- `rotor_id[slot] <- rotor` (R16). -/
def setRotorId (slot : Slot) (rotor : RotorId) (s : State) : State :=
  { s with rotorId := s.rotorId.set slot.val rotor slot.isLt }

/-- `rotation[slot] <- r` (R12). -/
def setRotation (slot : Slot) (r : Letter) (s : State) : State :=
  { s with rotation := s.rotation.set slot.val r slot.isLt }

/-- `ring[slot] <- r` (R17). -/
def setRing (slot : Slot) (r : Letter) (s : State) : State :=
  { s with ring := s.ring.set slot.val r slot.isLt }

/-- `reflector_id <- refl` (R18). -/
def setReflector (refl : ReflectorId) (s : State) : State :=
  { s with reflectorId := refl }

/-- `mode <- m` (R15). -/
def setMode (m : Mode) (s : State) : State :=
  { s with mode := m }

/-- The plugboard file after a WIRE; all its writes land together (R19, R48). -/
def setPlug (plug : Vector Letter 26) (s : State) : State :=
  { s with plug := plug }

/-- The rotations of slots 0, 1, 2 after a keystroke (R12). -/
def setRack (r0 r1 r2 : Letter) (s : State) : State :=
  setRotation 0 r0 (setRotation 1 r1 (setRotation 2 r2 s))

/-- Every machine register takes its reset value (R27, R130). The response registers, the host's inputs and the
model's reset mark are left to the caller. -/
def loadResetValues (s : State) : State :=
  { s with
    mode := State.reset.mode
    rotorId := State.reset.rotorId
    rotation := State.reset.rotation
    ring := State.reset.ring
    reflectorId := State.reset.reflectorId
    plug := State.reset.plug }

end Sys2Proof.Machine
end

