-- ==== Sys2Proof/Machine/Flags.lean ====
section
/-!
DEFINITION. The engine has no flag, condition code or sticky error bit (10_state.md R14). What a command reports
stands in the response registers (R24, R26), which every clock edge writes and no command reads.
-/

namespace Sys2Proof.Machine

/-- `resp(c, ill)` (00_scope.md R7): the response registers after an edge that executed a command (R26). -/
def respond (c : Byte) (ill : Bool) (s : State) : State :=
  { s with respValid := true, respChar := c, respIllegal := ill }

/-- The response registers after an edge that executed no command (R26, 93_implementation_defined.md U10). -/
def clearResponse (s : State) : State :=
  { s with respValid := false, respChar := 0x00, respIllegal := false }

/-- The response the host reads after a command. -/
def response (s : State) : Response := ⟨s.respChar, s.respIllegal⟩

/-- An illegal word changes no machine register and answers `(0x00, 1)` (30_encoding.md R66). -/
def illegalWord (s : State) : State := respond 0x00 true s

end Sys2Proof.Machine
end

