-- ==== Sys2Proof/Machine/Configuration.lean ====
section
/-!
DEFINITION. The configuration commands LDROT, SETROT, SETRING, LDREF, SETMODE, RESET (44_configuration.md R120 to
R130). Each responds `(0x00, 0)`, whether it took effect or was ignored, and none steps the rack.
-/

namespace Sys2Proof.Machine

/-- LDROT of any rotor (R120): an incompatible pairing is ignored; the slot's offsets are kept (D8). -/
def loadRotor (slot : Slot) (rotor : RotorId) (s : State) : State :=
  respond 0x00 false (if rotorFitsSlot slot rotor then setRotorId slot rotor s else s)

/-- The meaning of LDROT, the row of the rotors I..VIII. -/
def execLdrot (slot : Slot) (rotor : RotorId) (s : State) : Host.Outcome State Fault Refusal :=
  .next (loadRotor slot rotor s)

/-- The meaning of LDROT, the row of the rotors Beta and Gamma. -/
def execLdrotBetaGamma (slot : Slot) (rotor : RotorId) (s : State) : Host.Outcome State Fault Refusal :=
  .next (loadRotor slot rotor s)

/-- The meaning of SETROT (R122): never ignored, in either mode. -/
def execSetrot (slot : Slot) (val : Offset) (s : State) : Host.Outcome State Fault Refusal :=
  .next (respond 0x00 false (setRotation slot (offsetLetter val) s))

/-- The meaning of SETRING (R124): never ignored, in either mode. -/
def execSetring (slot : Slot) (val : Offset) (s : State) : Host.Outcome State Fault Refusal :=
  .next (respond 0x00 false (setRing slot (offsetLetter val) s))

/-- The meaning of LDREF (R126): a reflector of the other variant is ignored. -/
def execLdref (refl : ReflectorId) (s : State) : Host.Outcome State Fault Refusal :=
  .next (respond 0x00 false (if reflectorFitsMode s.mode refl then setReflector refl s else s))

/-- The meaning of SETMODE (R128): the reflector keeps its bit 0 and takes the mode's thin bit. -/
def execSetmode (m : Mode) (s : State) : Host.Outcome State Fault Refusal :=
  .next (respond 0x00 false (setReflector (reflectorForMode m s.reflectorId) (setMode m s)))

/-- The meaning of RESET (R130). -/
def execReset (s : State) : Host.Outcome State Fault Refusal :=
  .next (respond 0x00 false (loadResetValues s))

end Sys2Proof.Machine
end

