-- ==== Sys2Proof/Config.lean ====
section
/-!
DEFINITION. What the spec leaves to the implementation as named parameters (00_scope.md R6): the three
tables and the advance of slot 1 when slots 0 and 1 are both on a notch. The values the engine takes are
in Machine/Tables.lean.
-/

namespace Sys2Proof

/-- The parameter `BOTH_NOTCH_ADVANCE` (92_eei_decisions.md D12). -/
inductive BothNotchAdvance where
  /-- The source's algorithm taken literally: slot 1 advances by 2. -/
  | two
  /-- The historical reading: slot 1 advances by 1. -/
  | one
deriving DecidableEq, Repr

/-- The configuration of one engine: the ROM contents (20_memory.md R40) and the open parameter of D12. -/
structure Config where
  /-- `ROTOR_FWD[id][p]`. -/
  rotorFwd : RotorId → Letter → Letter
  /-- `ROTOR_INV[id][p]`. -/
  rotorInv : RotorId → Letter → Letter
  /-- `REFL[id][p]`. -/
  refl : ReflectorId → Letter → Letter
  /-- `NOTCH[id]`, the notch positions of a rotor, each listed once. -/
  notch : RotorId → List Letter
  /-- `BOTH_NOTCH_ADVANCE`. -/
  bothNotchAdvance : BothNotchAdvance

/-- What the spec requires of the tables, whatever they are (20_memory.md R41 T1 to T4). T1 follows from
the two equations of T2: a map with a two-sided inverse is a bijection. -/
structure Config.WF (cfg : Config) : Prop where
  /-- T2: `ROTOR_INV` undoes `ROTOR_FWD`. -/
  inv_fwd : ∀ (id : RotorId) (i : Letter), cfg.rotorInv id (cfg.rotorFwd id i) = i
  /-- T2, the other side: `ROTOR_FWD` undoes `ROTOR_INV`. -/
  fwd_inv : ∀ (id : RotorId) (i : Letter), cfg.rotorFwd id (cfg.rotorInv id i) = i
  /-- T3: every reflector is an involution. -/
  refl_refl : ∀ (id : ReflectorId) (i : Letter), cfg.refl id (cfg.refl id i) = i
  /-- T4: at most two notch positions. -/
  notch_size : ∀ id : RotorId, (cfg.notch id).length ≤ 2
  /-- T4: a set, so no position is listed twice. -/
  notch_nodup : ∀ id : RotorId, (cfg.notch id).Nodup
  /-- T4: the fourth-slot rotors have no notch. -/
  notch_beta : cfg.notch .beta = []
  /-- T4: the fourth-slot rotors have no notch. -/
  notch_gamma : cfg.notch .gamma = []

end Sys2Proof
end

