-- ==== Sys2Proof/Machine/Tables.lean ====
section
/-!
DEFINITION. The configuration of the engine: the historical tables the spec takes as the values of its open
parameters (20_memory.md R42 to R45, 92_eei_decisions.md D12, D19). The spec itself marks the tables
`[from general knowledge, not in source]`: UNVERIFIED, unsafe (log entry 6). Position 0 stands first.
-/

namespace Sys2Proof.Machine

/-- `ROTOR_FWD` (R42). -/
def rotorFwdTable : RotorId → Vector Letter 26
  | .i => #v[4, 10, 12, 5, 11, 6, 3, 16, 21, 25, 13, 19, 14, 22, 24, 7, 23, 20, 18, 15, 0, 8, 1, 17, 2, 9]
  | .ii => #v[0, 9, 3, 10, 18, 8, 17, 20, 23, 1, 11, 7, 22, 19, 12, 2, 16, 6, 25, 13, 15, 24, 5, 21, 14, 4]
  | .iii => #v[1, 3, 5, 7, 9, 11, 2, 15, 17, 19, 23, 21, 25, 13, 24, 4, 8, 22, 6, 0, 10, 12, 20, 18, 16, 14]
  | .iv => #v[4, 18, 14, 21, 15, 25, 9, 0, 24, 16, 20, 8, 17, 7, 23, 11, 13, 5, 19, 6, 10, 3, 2, 12, 22, 1]
  | .v => #v[21, 25, 1, 17, 6, 8, 19, 24, 20, 15, 18, 3, 13, 7, 11, 23, 0, 22, 12, 9, 16, 14, 5, 4, 2, 10]
  | .vi => #v[9, 15, 6, 21, 14, 20, 12, 5, 24, 16, 1, 4, 13, 7, 25, 17, 3, 10, 0, 18, 23, 11, 8, 2, 19, 22]
  | .vii => #v[13, 25, 9, 7, 6, 17, 2, 23, 12, 24, 18, 22, 1, 14, 20, 5, 0, 8, 21, 11, 15, 4, 10, 16, 3, 19]
  | .viii => #v[5, 10, 16, 7, 19, 11, 23, 14, 2, 1, 9, 18, 15, 3, 25, 17, 0, 12, 4, 22, 13, 8, 20, 24, 6, 21]
  | .beta => #v[11, 4, 24, 9, 21, 2, 13, 8, 23, 22, 15, 1, 16, 12, 3, 17, 19, 0, 10, 25, 6, 5, 20, 7, 14, 18]
  | .gamma => #v[5, 18, 14, 10, 0, 13, 20, 4, 17, 7, 12, 1, 19, 8, 24, 2, 22, 11, 16, 15, 25, 23, 21, 6, 9, 3]

/-- `ROTOR_INV` (R43). -/
def rotorInvTable : RotorId → Vector Letter 26
  | .i => #v[20, 22, 24, 6, 0, 3, 5, 15, 21, 25, 1, 4, 2, 10, 12, 19, 7, 23, 18, 11, 17, 8, 13, 16, 14, 9]
  | .ii => #v[0, 9, 15, 2, 25, 22, 17, 11, 5, 1, 3, 10, 14, 19, 24, 20, 16, 6, 4, 13, 7, 23, 12, 8, 21, 18]
  | .iii => #v[19, 0, 6, 1, 15, 2, 18, 3, 16, 4, 20, 5, 21, 13, 25, 7, 24, 8, 23, 9, 22, 11, 17, 10, 14, 12]
  | .iv => #v[7, 25, 22, 21, 0, 17, 19, 13, 11, 6, 20, 15, 23, 16, 2, 4, 9, 12, 1, 18, 10, 3, 24, 14, 8, 5]
  | .v => #v[16, 2, 24, 11, 23, 22, 4, 13, 5, 19, 25, 14, 18, 12, 21, 9, 20, 3, 10, 6, 8, 0, 17, 15, 7, 1]
  | .vi => #v[18, 10, 23, 16, 11, 7, 2, 13, 22, 0, 17, 21, 6, 12, 4, 1, 9, 15, 19, 24, 5, 3, 25, 20, 8, 14]
  | .vii => #v[16, 12, 6, 24, 21, 15, 4, 3, 17, 2, 22, 19, 8, 0, 13, 20, 23, 5, 10, 25, 14, 18, 11, 7, 9, 1]
  | .viii => #v[16, 9, 8, 13, 18, 0, 24, 3, 21, 10, 1, 5, 17, 20, 7, 12, 2, 15, 11, 4, 22, 25, 19, 6, 23, 14]
  | .beta => #v[17, 11, 5, 14, 1, 21, 20, 23, 7, 3, 18, 0, 13, 6, 24, 10, 12, 15, 25, 16, 22, 4, 9, 8, 2, 19]
  | .gamma => #v[4, 11, 15, 25, 7, 0, 23, 9, 13, 24, 3, 17, 10, 5, 2, 19, 18, 8, 1, 12, 6, 22, 16, 21, 14, 20]

/-- `REFL` (R44). -/
def reflTable : ReflectorId → Vector Letter 26
  | .b => #v[24, 17, 20, 7, 16, 18, 11, 3, 15, 23, 13, 6, 14, 10, 12, 8, 4, 1, 5, 25, 2, 22, 21, 9, 0, 19]
  | .c => #v[5, 21, 15, 9, 8, 0, 14, 24, 4, 3, 17, 25, 23, 22, 6, 2, 19, 10, 20, 16, 18, 1, 13, 12, 7, 11]
  | .bThin => #v[4, 13, 10, 16, 0, 20, 24, 22, 9, 8, 2, 14, 15, 1, 11, 12, 3, 23, 25, 21, 5, 19, 7, 17, 6, 18]
  | .cThin => #v[17, 3, 14, 1, 9, 13, 19, 10, 21, 4, 7, 12, 11, 5, 2, 22, 25, 0, 23, 6, 24, 8, 15, 18, 20, 16]

/-- `NOTCH` (R45): the rotations at which a keystroke carries to the next slower slot. -/
def notchTable : RotorId → List Letter
  | .i => [16]
  | .ii => [4]
  | .iii => [21]
  | .iv => [9]
  | .v => [25]
  | .vi => [12, 25]
  | .vii => [12, 25]
  | .viii => [12, 25]
  | .beta => []
  | .gamma => []

/-- The engine's configuration: the tables above and `BOTH_NOTCH_ADVANCE` = 2, the spec's default
(D12; log entry 7). -/
def engineConfig : Config where
  rotorFwd id p := (rotorFwdTable id)[p]
  rotorInv id p := (rotorInvTable id)[p]
  refl id p := (reflTable id)[p]
  notch := notchTable
  bothNotchAdvance := .two

end Sys2Proof.Machine
end

