-- ==== Sys2Proof/Machine/Stepper.lean ====
section
/-!
DEFINITION. The sub-block `enigma_rack_stepper` (41_rack_stepping.md R90, R96): the three steps in the source's
order, which is what makes the double step.
-/

namespace Sys2Proof.Machine

/-- `r in NOTCH[id]` (20_memory.md R45). -/
def onNotch (cfg : Config) (id : RotorId) (r : Letter) : Bool := (cfg.notch id).contains r

/-- The port list of R96: the next rotations of slots 0, 1, 2. Step 2 is skipped after step 1 only under the
other value of `BOTH_NOTCH_ADVANCE` (92_eei_decisions.md D12). -/
def enigmaRackStepper (cfg : Config) (id0 id1 : RotorId) (r0 r1 r2 : Letter) : Letter × Letter × Letter :=
  let middleOnNotch := onNotch cfg id1 r1
  let r1' := if middleOnNotch then nextLetter r1 else r1
  let r2' := if middleOnNotch then nextLetter r2 else r2
  let fastOnNotch := onNotch cfg id0 r0
  let carries := fastOnNotch && !(middleOnNotch && cfg.bothNotchAdvance == .one)
  let r1'' := if carries then nextLetter r1' else r1'
  (nextLetter r0, r1'', r2')

/-- `step` (R90): advance the rack by one keystroke. Slot 3 never steps (R94). -/
def stepRack (cfg : Config) (s : State) : State :=
  let next := enigmaRackStepper cfg s.rotorId[0] s.rotorId[1] s.rotation[0] s.rotation[1] s.rotation[2]
  setRack next.1 next.2.1 next.2.2 s

end Sys2Proof.Machine
end

