-- ==== Sys2Proof/Machine/Wheel.lean ====
section
/-!
DEFINITION. The sub-block `rotor_ring_setting_logic` and the two bare lookups beside it (40_wheel_math.md R80 to
R83, R87). Every function is written against the configuration, not against a particular table (00_scope.md R6).
-/

namespace Sys2Proof.Machine

/-- The port `dir` of R87. -/
inductive Direction where
  | forward
  | inverse
deriving DecidableEq, Repr

/-- Step 2 of R80 and R81: one read of ROTOR_FWD or ROTOR_INV. -/
def rotorRead (cfg : Config) (dir : Direction) (id : RotorId) (p : Letter) : Letter :=
  match dir with
  | .forward => cfg.rotorFwd id p
  | .inverse => cfg.rotorInv id p

/-- `rotor_ring_setting_logic` (R87): R80 for `forward`, R81 for `inverse`, in the source's order of the halves
of steps 1 and 3 (R89). -/
def rotorRingSettingLogic (cfg : Config) (dir : Direction) (id : RotorId) (rot ring i : Letter) : Letter :=
  let p := subLetter i ring
  let p := addLetter p rot
  let c := rotorRead cfg dir id p
  let c := subLetter c rot
  addLetter c ring

/-- `apply_forward` (R80). -/
def applyForward (cfg : Config) (id : RotorId) (rot ring i : Letter) : Letter :=
  rotorRingSettingLogic cfg .forward id rot ring i

/-- `apply_inverse` (R81). -/
def applyInverse (cfg : Config) (id : RotorId) (rot ring i : Letter) : Letter :=
  rotorRingSettingLogic cfg .inverse id rot ring i

/-- `reflect` (R82): a bare lookup. -/
def reflect (cfg : Config) (id : ReflectorId) (i : Letter) : Letter := cfg.refl id i

/-- `plug_lookup` (R83): a bare lookup, the same on the way in and on the way out. -/
def plugLookup (plug : Vector Letter 26) (i : Letter) : Letter := plug[i]

end Sys2Proof.Machine
end

