-- ==== Sys2Proof/Machine/Encode.lean ====
section
/-!
DEFINITION. The sub-block `permutation_substitution_pipeline` and the command ENC (42_encode.md R100 to R102).
-/

namespace Sys2Proof.Machine

/-- The signal through the active rotors of one direction, in the order of the list. -/
def throughRotors (cfg : Config) (dir : Direction) (rotorId : Vector RotorId 4) (rotation ring : Vector Letter 4)
    (slots : List Slot) (i : Letter) : Letter :=
  slots.foldl (fun i slot => rotorRingSettingLogic cfg dir rotorId[slot] rotation[slot] ring[slot] i) i

/-- `permutation_substitution_pipeline` (R102): steps 3 to 7 of R100, over its own ports. -/
def permutationSubstitutionPipeline (cfg : Config) (mode : Mode) (rotorId : Vector RotorId 4)
    (rotation ring : Vector Letter 4) (reflectorId : ReflectorId) (plug : Vector Letter 26) (iIn : Letter) : Letter :=
  let i := plugLookup plug iIn
  let i := throughRotors cfg .forward rotorId rotation ring (activeSlots mode) i
  let i := reflect cfg reflectorId i
  let i := throughRotors cfg .inverse rotorId rotation ring (activeSlots mode).reverse i
  plugLookup plug i

/-- `path` (R101) at a state, which is the state after stepping. -/
def path (cfg : Config) (s : State) (i : Letter) : Letter :=
  permutationSubstitutionPipeline cfg s.mode s.rotorId s.rotation s.ring s.reflectorId s.plug i

/-- ENC (R100): a letter steps the rack, then passes it; anything else is echoed and changes nothing. -/
def encipher (cfg : Config) (ch : Byte) (s : State) : State :=
  match letterIndex ch with
  | none => respond ch false s
  | some i =>
    let stepped := stepRack cfg s
    respond (letterChar (path cfg stepped i)) false stepped

/-- The meaning of ENC. -/
def execEnc (ch : Byte) (s : State) : Host.Outcome State Fault Refusal :=
  .next (encipher engineConfig ch s)

end Sys2Proof.Machine
end

