-- ==== Sys2Proof/Machine/Plugboard.lean ====
section
/-!
DEFINITION. The command WIRE (43_plugboard.md R110): remove the pairings of both letters, then install the pair.
-/

namespace Sys2Proof.Machine

/-- Remove a letter's pairing: both ends to self (R110). -/
def removePairing (a : Letter) (plug : Vector Letter 26) : Vector Letter 26 :=
  let partner := plugLookup plug a
  (plug.set partner.val partner partner.isLt).set a.val a a.isLt

/-- Install the mutual mapping of two letters (R110). -/
def installPairing (a b : Letter) (plug : Vector Letter 26) : Vector Letter 26 :=
  (plug.set a.val b a.isLt).set b.val a b.isLt

/-- The plugboard after WIRE of two letters; the second removal reads what the first left (R110). -/
def wirePlug (a b : Letter) (plug : Vector Letter 26) : Vector Letter 26 :=
  installPairing a b (removePairing b (removePairing a plug))

/-- WIRE (R110): silent no-op when either character is no letter; the test comes before any write. -/
def wireLetters (ch1 ch2 : Byte) (s : State) : State :=
  match letterIndex ch1, letterIndex ch2 with
  | some a, some b => respond 0x00 false (setPlug (wirePlug a b s.plug) s)
  | _, _ => respond 0x00 false s

/-- The meaning of WIRE. -/
def execWire (ch1 ch2 : Byte) (s : State) : Host.Outcome State Fault Refusal :=
  .next (wireLetters ch1 ch2 s)

end Sys2Proof.Machine
end

