-- ==== Sys2Proof/Machine/Dispatch.lean ====
section
/-!
DEFINITION. The dispatch of a decoded command to its meaning (30_encoding.md R61), one arm per constructor.
-/

namespace Sys2Proof.Machine

def exec (i : Instr) (s : State) : Host.Outcome State Fault Refusal :=
  match i with
  | .enc ch => Sys2Proof.Machine.execEnc ch s
  | .wire ch1 ch2 => Sys2Proof.Machine.execWire ch1 ch2 s
  | .ldrot slot rotor => Sys2Proof.Machine.execLdrot slot rotor s
  | .ldrotBetaGamma slot rotor => Sys2Proof.Machine.execLdrotBetaGamma slot rotor s
  | .setrot slot val => Sys2Proof.Machine.execSetrot slot val s
  | .setring slot val => Sys2Proof.Machine.execSetring slot val s
  | .ldref refl => Sys2Proof.Machine.execLdref refl s
  | .setmode m => Sys2Proof.Machine.execSetmode m s
  | .reset => Sys2Proof.Machine.execReset s

end Sys2Proof.Machine
end

