-- ==== Sys2Proof/Machine/Clock.lean ====
section
/-!
DEFINITION. One rising edge of `clk` (10_state.md R26), the execution of one command word (30_encoding.md R61), and
a run over a list of words (00_scope.md R8, 70_reset_and_hazards.md R170).
-/

namespace Sys2Proof.Machine

/-- `exec(state, cmd)` of R61: decode, then the command's own rule; an illegal word is executed too (R66). -/
def execWord (w : Word) (s : State) : Host.Outcome State Fault Refusal :=
  match decode w with
  | .ok i => exec i s
  | .error _ => .next (illegalWord s)

/-- The first arm of R26: the `rst` pin wins, drops a simultaneous command and clears the response registers. -/
def pinReset (s : State) : State :=
  { clearResponse (loadResetValues s) with hasBeenReset := true }

/-- One rising edge (R26). Before the first pin reset no other edge has a meaning (R147, R160; log entry 3), and a
host that breaks a duty of R166 has none at any time (R147; log entry 4). -/
def clockEdge (input : PortInput) (s : State) : Host.Outcome State Fault Refusal :=
  match input with
  | .broken duty => .refused (.hostDutyBroken duty)
  | .driven rst cmdValid cmd =>
    if rst then .next (pinReset s)
    else if !s.hasBeenReset then .refused .notReset
    else if cmdValid then execWord cmd s
    else .next (clearResponse s)

/-- What the host drives at the next edge, and the state with that edge taken off its list. A host that has
nothing more to drive holds `rst` and `cmd_valid` at 0 (log entry 2, DESIGN CHOICE). -/
def nextInput (s : State) : PortInput × State :=
  match s.inputs with
  | [] => (.driven false false 0, s)
  | input :: rest => (input, { s with inputs := rest })

/-- The host presents the word `w` at the next edge. -/
def presentWord (w : Word) (s : State) : State :=
  { s with inputs := .driven false true w :: s.inputs }

/-- A run (R8, R170): the words in order, one `exec` each; its observation is the final state and the list of
responses. -/
def runWords : List Word → State → Host.Outcome (State × List Response) Fault Refusal
  | [], s => .next (s, [])
  | w :: ws, s =>
    match execWord w s with
    | .next t =>
      match runWords ws t with
      | .next (u, rs) => .next (u, response t :: rs)
      | .fault f => .fault f
      | .refused r => .refused r
    | .fault f => .fault f
    | .refused r => .refused r

end Sys2Proof.Machine
end

