-- ==== Sys2Proof/Machine/Step.lean ====
section
/-!
DEFINITION. One step of the machine: one rising edge of `clk` with what the host drives there (10_state.md R26).
-/

namespace Sys2Proof.Machine

/-- One step: take the host's next input and clock it in. -/
def step (s : State) : Host.Outcome State Fault Refusal :=
  let next := nextInput s
  clockEdge next.1 next.2

/-- The state in which the very next step executes the given word: the engine has no program counter and no
instruction memory (R13), so a program is what the host presents, and the word is put before everything else the
host drives. A command needs the pin reset to have happened (R166), so the mark is set (log entry 12). The word
is numbered as `cmd[31:0]` is; bits above `nbits` are 0. -/
def State.withFetchWord (s : State) (nbits w : Nat) : State :=
  { presentWord (BitVec.ofNat 32 (w % 2 ^ nbits)) s with hasBeenReset := true }

end Sys2Proof.Machine
end

