-- ==== Sys2Proof/Machine/Settings.lean ====
section
/-!
DEFINITION. The data content of the persisted settings format (30_encoding.md R72 to R74): what each line carries,
the commands it expands to, and the lines the writer emits. The text itself (the lexical grammar) is host-side
(R4, R74).
-/

namespace Sys2Proof.Machine

/-- The mode of a code, if it names one. -/
def modeOfCode : Nat → Option Mode
  | 0 => some .m3
  | 1 => some .m4
  | _ => none

/-- The reflector of a code, if it names one. -/
def reflectorOfCode : Nat → Option ReflectorId
  | 0 => some .b
  | 1 => some .c
  | 2 => some .bThin
  | 3 => some .cThin
  | _ => none

/-- What one line of a settings file carries (R72). -/
inductive SettingsLine where
  /-- A blank line, or a line beginning with `#`. -/
  | comment
  /-- `mode=<code>`. -/
  | mode (code : Nat)
  /-- `r<N>=<rotor_code> <rotation> <ringset>`. -/
  | rotor (n code : Nat) (rotation ringset : Int)
  /-- `reflector=<code>`. -/
  | reflector (code : Nat)
  /-- `<letter1>=<letter2>`. -/
  | plug (letter1 letter2 : Byte)
  /-- A line the front end cannot parse (R74). -/
  | malformed
deriving DecidableEq, Repr

/-- The 16-bit operand of an offset: itself in range; out of range the host reduces it, with the same result
(R64; log entry 15, DEDUCED, safe). -/
def offsetOperand (v : Int) : Offset :=
  if -32768 ≤ v ∧ v ≤ 32767 then BitVec.ofInt 16 v else BitVec.ofNat 16 (fmod26 v).val

/-- The commands one line expands to (R72); a line with a code outside the enumerations expands to nothing (R74). -/
def expandLine : SettingsLine → List Instr
  | .comment => []
  | .mode code =>
    match modeOfCode code with
    | some m => [.setmode m]
    | none => []
  | .rotor n code rotation ringset =>
    if h : n < 4 then
      match RotorId.ofCode code with
      | some rotor =>
        [ldrotOf ⟨n, h⟩ rotor, .setrot ⟨n, h⟩ (offsetOperand rotation), .setring ⟨n, h⟩ (offsetOperand ringset)]
      | none => []
    else []
  | .reflector code =>
    match reflectorOfCode code with
    | some refl => [.ldref refl]
    | none => []
  | .plug letter1 letter2 => [.wire letter1 letter2]
  | .malformed => []

/-- The commands a settings file expands to, in file order (R72). -/
def expandSettings (lines : List SettingsLine) : List Instr := lines.flatMap expandLine

/-- The `r<N>=` line of one slot (R73). -/
def rotorLine (s : State) (slot : Slot) : SettingsLine :=
  .rotor slot.val s.rotorId[slot].code (s.rotation[slot].val : Int) (s.ring[slot].val : Int)

/-- The plugboard lines: one for every letter whose mapping differs from itself (R73). Their order, here by ascending
letter, is not fixed by the spec (95_test_vectors.md S7; log entry 18, DESIGN CHOICE, safe). -/
def plugLines (plug : Vector Letter 26) : List SettingsLine :=
  ((List.finRange 26).filter fun i => plug[i] ≠ i).map fun i => .plug (letterChar i) (letterChar plug[i])

/-- The settings writer (R73): the mode line, the active slots fast to slow, the reflector line, the plugboard. -/
def writeSettings (s : State) : List SettingsLine :=
  .mode s.mode.code :: ((activeSlots s.mode).map (rotorLine s) ++ .reflector s.reflectorId.code :: plugLines s.plug)

end Sys2Proof.Machine
end

