-- ==== Sys2Proof/Machine/Assembler.lean ====
section
/-!
DEFINITION. The mnemonic form and its pseudo-instructions (30_encoding.md R70, R71) over parsed operands: which
commands a line stands for. Lexing the text is host-side. An operand outside the ranges of R70 has no assembly
(log entry 16, DESIGN CHOICE, safe).
-/

namespace Sys2Proof.Machine

/-- `ch`: one ASCII character in quotes, or a number 0..255. -/
inductive CharOperand where
  | quoted (ch : Byte)
  | number (n : Nat)
deriving DecidableEq, Repr

/-- `v`: a decimal integer, or a quoted letter meaning 0..25. -/
inductive ValueOperand where
  | number (v : Int)
  | quoted (ch : Byte)
deriving DecidableEq, Repr

/-- `rotor`: a code or a name. -/
inductive RotorOperand where
  | code (n : Nat)
  | name (rotor : RotorId)
deriving DecidableEq, Repr

/-- `refl`: a code or a name. -/
inductive ReflectorOperand where
  | code (n : Nat)
  | name (refl : ReflectorId)
deriving DecidableEq, Repr

/-- `m`: a code or a name. -/
inductive ModeOperand where
  | code (n : Nat)
  | name (m : Mode)
deriving DecidableEq, Repr

/-- One line of the mnemonic form. -/
inductive AsmLine where
  /-- A comment or an empty line. -/
  | comment
  | enc (ch : CharOperand)
  | wire (ch1 ch2 : CharOperand)
  | ldrot (slot : Nat) (rotor : RotorOperand)
  | setrot (slot : Nat) (v : ValueOperand)
  | setring (slot : Nat) (v : ValueOperand)
  | ldref (refl : ReflectorOperand)
  | setmode (m : ModeOperand)
  | reset
  /-- `ROTOR slot, rotor, rot, ring` (R71). -/
  | rotor (slot : Nat) (rotor : RotorOperand) (rot ring : ValueOperand)
  /-- `UNPLUG ch` (R71). -/
  | unplug (ch : CharOperand)
  /-- `ENCS "text"` (R71). -/
  | encs (text : List Byte)
deriving DecidableEq, Repr

/-- The character of an operand. -/
def assembleChar : CharOperand → Option Byte
  | .quoted ch => if ch.toNat < 128 then some ch else none
  | .number n => if n ≤ 255 then some (BitVec.ofNat 8 n) else none

/-- The 16 bits of a value operand, `v AND 0xFFFF`. -/
def assembleValue : ValueOperand → Option Offset
  | .number v => if -32768 ≤ v ∧ v ≤ 32767 then some (BitVec.ofInt 16 v) else none
  | .quoted ch => if isUpper ch then some (BitVec.ofNat 16 (ch.toNat - 0x41)) else none

/-- The slot of a number. -/
def assembleSlot (n : Nat) : Option Slot := if h : n < 4 then some ⟨n, h⟩ else none

/-- The rotor of an operand. -/
def assembleRotor : RotorOperand → Option RotorId
  | .code n => RotorId.ofCode n
  | .name rotor => some rotor

/-- The reflector of an operand. -/
def assembleReflector : ReflectorOperand → Option ReflectorId
  | .code n => reflectorOfCode n
  | .name refl => some refl

/-- The mode of an operand. -/
def assembleMode : ModeOperand → Option Mode
  | .code n => modeOfCode n
  | .name m => some m

/-- The commands of one line (R70, R71). -/
def assembleLine : AsmLine → Option (List Instr)
  | .comment => some []
  | .enc ch => do return [.enc (← assembleChar ch)]
  | .wire ch1 ch2 => do return [.wire (← assembleChar ch1) (← assembleChar ch2)]
  | .ldrot slot rotor => do return [ldrotOf (← assembleSlot slot) (← assembleRotor rotor)]
  | .setrot slot v => do return [.setrot (← assembleSlot slot) (← assembleValue v)]
  | .setring slot v => do return [.setring (← assembleSlot slot) (← assembleValue v)]
  | .ldref refl => do return [.ldref (← assembleReflector refl)]
  | .setmode m => do return [.setmode (← assembleMode m)]
  | .reset => some [.reset]
  | .rotor slot rotor rot ring => do
    let slot ← assembleSlot slot
    return [ldrotOf slot (← assembleRotor rotor), .setrot slot (← assembleValue rot), .setring slot (← assembleValue ring)]
  | .unplug ch => do
    let ch ← assembleChar ch
    return [.wire ch ch]
  | .encs text => some (text.map .enc)

/-- A program in the mnemonic form: its command words, in order. -/
def assemble : List AsmLine → Option (List Word)
  | [] => some []
  | line :: lines => do
    let commands ← assembleLine line
    let words ← assemble lines
    return commands.map encode ++ words

end Sys2Proof.Machine
end

