-- ==== Sys2Proof/Machine/AsmText.lean ====
section
/-!
DEFINITION. The text of the mnemonic form (30_encoding.md R70, R71): one command a line, `;` starts a comment. What
R70 leaves open of the lexing (blanks separate words, a `;` inside quotes is a character, mnemonics and names stand
in capitals, hexadecimal digits in either case) is log entry 17, DESIGN CHOICE, safe.
-/

namespace Sys2Proof.Machine

/-- A token of one line. -/
inductive Token where
  /-- A run of letters, digits and `-`. -/
  | word (cs : List Char)
  /-- `'x'`. -/
  | char (c : Char)
  /-- `"text"`. -/
  | text (cs : List Char)
  | comma
deriving DecidableEq, Repr

/-- Where the lexer stands: between tokens, in a word, after the opening quote of a character, after its
character, or in a text; what it has read so far is kept in reverse. -/
inductive LexMode where
  | between
  | word (read : List Char)
  | quoteOpen
  | quoteFull (c : Char)
  | text (read : List Char)
deriving DecidableEq, Repr

/-- A letter, a digit or a minus sign. -/
def isWordChar (c : Char) : Bool :=
  (65 ≤ c.toNat && c.toNat ≤ 90) || (97 ≤ c.toNat && c.toNat ≤ 122) || (48 ≤ c.toNat && c.toNat ≤ 57) || c.toNat == 45

/-- The tokens of a line, up to a `;`; none if a quote is left open or a character fits no token. -/
def lexLine : LexMode → List Char → Option (List Token)
  | .between, [] => some []
  | .between, c :: cs =>
    if c = ';' then some []
    else if c = ' ' ∨ c = '\t' then lexLine .between cs
    else if c = ',' then (lexLine .between cs).map (Token.comma :: ·)
    else if c = '\'' then lexLine .quoteOpen cs
    else if c = '"' then lexLine (.text []) cs
    else if isWordChar c then lexLine (.word [c]) cs
    else none
  | .word read, [] => some [.word read.reverse]
  | .word read, c :: cs =>
    if isWordChar c then lexLine (.word (c :: read)) cs
    else if c = ' ' ∨ c = '\t' then (lexLine .between cs).map (Token.word read.reverse :: ·)
    else if c = ',' then (lexLine .between cs).map fun ts => Token.word read.reverse :: Token.comma :: ts
    else if c = ';' then some [.word read.reverse]
    else none
  | .quoteOpen, [] => none
  | .quoteOpen, c :: cs => lexLine (.quoteFull c) cs
  | .quoteFull _, [] => none
  | .quoteFull c, q :: cs => if q = '\'' then (lexLine .between cs).map (Token.char c :: ·) else none
  | .text _, [] => none
  | .text read, c :: cs =>
    if c = '"' then (lexLine .between cs).map (Token.text read.reverse :: ·) else lexLine (.text (c :: read)) cs

/-- The value of a digit `0`..`9`, `A`..`F`; `a`..`f` mean the same (log entry 17). -/
def digitValue (c : Char) : Option Nat :=
  if 48 ≤ c.toNat ∧ c.toNat ≤ 57 then some (c.toNat - 48)
  else if 65 ≤ c.toNat ∧ c.toNat ≤ 70 then some (c.toNat - 55)
  else if 97 ≤ c.toNat ∧ c.toNat ≤ 102 then some (c.toNat - 87)
  else none

/-- The digits of a base, read after the number `n`; a digit of the base or more is none. -/
def digitsFrom (base : Nat) : Nat → List Char → Option Nat
  | n, [] => some n
  | n, c :: cs => do
    let d ← digitValue c
    if d < base then digitsFrom base (base * n + d) cs else none

/-- A number without a sign in a base, of at least one digit. -/
def numeral (base : Nat) : List Char → Option Nat
  | [] => none
  | c :: cs => digitsFrom base 0 (c :: cs)

/-- A number without a sign (00_scope.md R7): `0x..` is hexadecimal, `0b..` binary, anything else decimal. -/
def number : List Char → Option Nat
  | '0' :: 'x' :: cs => numeral 16 cs
  | '0' :: 'b' :: cs => numeral 2 cs
  | cs => numeral 10 cs

/-- A decimal integer, with a minus sign or without; R70 asks for decimal here. -/
def signedDecimal : List Char → Option Int
  | [] => none
  | c :: cs => if c = '-' then (numeral 10 cs).map fun n => -(n : Int) else (numeral 10 (c :: cs)).map Int.ofNat

/-- The byte of an ASCII character. -/
def asciiByte (c : Char) : Option Byte := if c.toNat < 128 then some (BitVec.ofNat 8 c.toNat) else none

/-- A character operand. -/
def parseChar : Token → Option CharOperand
  | .char c => (asciiByte c).map .quoted
  | .word cs => (number cs).map .number
  | .text _ => none
  | .comma => none

/-- A value operand. -/
def parseValue : Token → Option ValueOperand
  | .char c => (asciiByte c).map .quoted
  | .word cs => (signedDecimal cs).map .number
  | .text _ => none
  | .comma => none

/-- A slot operand. -/
def parseSlot : Token → Option Nat
  | .word cs => number cs
  | .char _ => none
  | .text _ => none
  | .comma => none

/-- The rotor names of R70. -/
def rotorNames : List (List Char × RotorId) :=
  [ (['I'], .i), (['I', 'I'], .ii), (['I', 'I', 'I'], .iii), (['I', 'V'], .iv), (['V'], .v), (['V', 'I'], .vi),
    (['V', 'I', 'I'], .vii), (['V', 'I', 'I', 'I'], .viii), (['B', 'E', 'T', 'A'], .beta),
    (['G', 'A', 'M', 'M', 'A'], .gamma) ]

/-- The reflector names of R70. -/
def reflectorNames : List (List Char × ReflectorId) :=
  [ (['B'], .b), (['C'], .c), (['B', 'T', 'H', 'I', 'N'], .bThin), (['C', 'T', 'H', 'I', 'N'], .cThin) ]

/-- The mode names of R70. -/
def modeNames : List (List Char × Mode) := [ (['M', '3'], .m3), (['M', '4'], .m4) ]

/-- The entry a word names. -/
def lookupName {α : Type} (names : List (List Char × α)) (cs : List Char) : Option α :=
  (names.find? fun entry => entry.1 = cs).map Prod.snd

/-- A rotor operand: a name, or else a code. -/
def parseRotor : Token → Option RotorOperand
  | .word cs =>
    match lookupName rotorNames cs with
    | some rotor => some (.name rotor)
    | none => (number cs).map .code
  | .char _ => none
  | .text _ => none
  | .comma => none

/-- A reflector operand: a name, or else a code. -/
def parseReflector : Token → Option ReflectorOperand
  | .word cs =>
    match lookupName reflectorNames cs with
    | some refl => some (.name refl)
    | none => (number cs).map .code
  | .char _ => none
  | .text _ => none
  | .comma => none

/-- A mode operand: a name, or else a code. -/
def parseMode : Token → Option ModeOperand
  | .word cs =>
    match lookupName modeNames cs with
    | some m => some (.name m)
    | none => (number cs).map .code
  | .char _ => none
  | .text _ => none
  | .comma => none

/-- The characters of a quoted text. -/
def parseText : List Char → Option (List Byte)
  | [] => some []
  | c :: cs => do return (← asciiByte c) :: (← parseText cs)

/-- The mnemonics and pseudo-instructions of R70 and R71 as words. -/
inductive AsmWord where
  | enc
  | wire
  | ldrot
  | setrot
  | setring
  | ldref
  | setmode
  | reset
  | rotor
  | unplug
  | encs
deriving DecidableEq, Repr

/-- Their spelling. -/
def asmWords : List (List Char × AsmWord) :=
  [ (['E', 'N', 'C'], .enc), (['W', 'I', 'R', 'E'], .wire), (['L', 'D', 'R', 'O', 'T'], .ldrot),
    (['S', 'E', 'T', 'R', 'O', 'T'], .setrot), (['S', 'E', 'T', 'R', 'I', 'N', 'G'], .setring),
    (['L', 'D', 'R', 'E', 'F'], .ldref), (['S', 'E', 'T', 'M', 'O', 'D', 'E'], .setmode),
    (['R', 'E', 'S', 'E', 'T'], .reset), (['R', 'O', 'T', 'O', 'R'], .rotor),
    (['U', 'N', 'P', 'L', 'U', 'G'], .unplug), (['E', 'N', 'C', 'S'], .encs) ]

/-- The line a mnemonic and its operand tokens stand for. -/
def parseOperands : AsmWord → List Token → Option AsmLine
  | .enc, [ch] => (parseChar ch).map .enc
  | .wire, [ch1, .comma, ch2] => do return .wire (← parseChar ch1) (← parseChar ch2)
  | .ldrot, [slot, .comma, rotor] => do return .ldrot (← parseSlot slot) (← parseRotor rotor)
  | .setrot, [slot, .comma, v] => do return .setrot (← parseSlot slot) (← parseValue v)
  | .setring, [slot, .comma, v] => do return .setring (← parseSlot slot) (← parseValue v)
  | .ldref, [refl] => (parseReflector refl).map .ldref
  | .setmode, [m] => (parseMode m).map .setmode
  | .reset, [] => some .reset
  | .rotor, [slot, .comma, rotor, .comma, rot, .comma, ring] => do
    return .rotor (← parseSlot slot) (← parseRotor rotor) (← parseValue rot) (← parseValue ring)
  | .unplug, [ch] => (parseChar ch).map .unplug
  | .encs, [.text cs] => (parseText cs).map .encs
  | _, _ => none

/-- One line of the text (R70). -/
def parseLine (line : List Char) : Option AsmLine := do
  match ← lexLine .between line with
  | [] => return .comment
  | .word cs :: operands => parseOperands (← lookupName asmWords cs) operands
  | _ => none

/-- A program text, one line after another: its command words. -/
def assembleText : List (List Char) → Option (List Word)
  | [] => some []
  | line :: lines => do
    let parsed ← parseLine line
    let words ← assemble [parsed]
    let rest ← assembleText lines
    return words ++ rest

end Sys2Proof.Machine
end

