-- ==== Sys2Proof/Machine/Ports.lean ====
section
/-!
DEFINITION. The output ports of the engine (10_state.md R23 to R25): functions of the state, combinational and
without side effect. This is the one place where registers appear with their raw widths (R10).
-/

namespace Sys2Proof.Machine

/-- Entries of `width` bits packed with entry 0 in the least significant bits (R23). -/
def packEntries (width : Nat) : List Nat → Nat
  | [] => 0
  | entry :: rest => entry + 2 ^ width * packEntries width rest

/-- The output ports of R23. -/
structure OutputPorts where
  cmdReady : BitVec 1
  respValid : BitVec 1
  respChar : BitVec 8
  respIllegal : BitVec 1
  obsMode : BitVec 1
  obsReflector : BitVec 2
  obsRotorId : BitVec 16
  obsRotation : BitVec 20
  obsRing : BitVec 20
  obsPlug : BitVec 130
deriving DecidableEq, Repr

/-- What the host sees of a state (R23, R25): `cmd_ready` is constantly 1; slot `s` of `obs_rotor_id` stands in
bits `4s+3 : 4s`, slot `s` of `obs_rotation` and `obs_ring` and entry `i` of `obs_plug` in bits `5s+4 : 5s`. -/
def outputPorts (s : State) : OutputPorts where
  cmdReady := 1
  respValid := BitVec.ofBool s.respValid
  respChar := s.respChar
  respIllegal := BitVec.ofBool s.respIllegal
  obsMode := BitVec.ofNat 1 s.mode.code
  obsReflector := BitVec.ofNat 2 s.reflectorId.code
  obsRotorId := BitVec.ofNat 16 (packEntries 4 (s.rotorId.toList.map RotorId.code))
  obsRotation := BitVec.ofNat 20 (packEntries 5 (s.rotation.toList.map Fin.val))
  obsRing := BitVec.ofNat 20 (packEntries 5 (s.ring.toList.map Fin.val))
  obsPlug := BitVec.ofNat 130 (packEntries 5 (s.plug.toList.map Fin.val))

end Sys2Proof.Machine
end

