-- ==== Sys2Proof/Safety.lean ====
section
/-!
DEFINITION. The terms claims use: the state invariants of 10_state.md R20, and what counts as a clean run
(60_exceptions.md R147).
-/

namespace Sys2Proof.Machine

/-- INV2: slots 0..2 hold rotors I..VIII and slot 3 holds Beta or Gamma. -/
abbrev SlotsFit (s : State) : Prop := ∀ slot : Slot, rotorFitsSlot slot s.rotorId[slot] = true

/-- INV3: the thin bit of the reflector is the mode bit. -/
abbrev ReflectorFits (s : State) : Prop := reflectorFitsMode s.mode s.reflectorId = true

/-- INV4: a plugboard is an involution. -/
abbrev PlugInvolution (plug : Vector Letter 26) : Prop := ∀ i : Letter, plug[plug[i]] = i

/-- The invariants of R20. INV1 (offsets below 26) and the ranges of INV4 hold by the types. -/
abbrev Inv (s : State) : Prop := SlotsFit s ∧ ReflectorFits s ∧ PlugInvolution s.plug

/-- The invariants hold of every engine that has been reset; before that no register means anything (R160). -/
abbrev InvAfterReset (s : State) : Prop := s.hasBeenReset = true → Inv s

/-- No reflector maps a letter to itself: what R106 needs beyond R41. -/
abbrev ReflectorsMoveEveryLetter (cfg : Config) : Prop := ∀ (id : ReflectorId) (i : Letter), cfg.refl id i ≠ i

/-- Two states with the same machine registers (R10), whatever the response registers and the host's inputs. -/
abbrev SameRegisters (s t : State) : Prop :=
  t.mode = s.mode ∧ t.rotorId = s.rotorId ∧ t.rotation = s.rotation ∧ t.ring = s.ring ∧
    t.reflectorId = s.reflectorId ∧ t.plug = s.plug

/-- Two states with the same machine registers but for those of slot 3 (10_state.md R21). -/
abbrev SameButSlot3 (s t : State) : Prop :=
  t.mode = s.mode ∧ t.reflectorId = s.reflectorId ∧ t.plug = s.plug ∧
    ∀ slot : Slot, slot ≠ 3 →
      t.rotorId[slot] = s.rotorId[slot] ∧ t.rotation[slot] = s.rotation[slot] ∧ t.ring[slot] = s.ring[slot]

/-- No command of a run was illegal (R147). -/
def CleanRun (responses : List Response) : Prop := ∀ r ∈ responses, r.illegal = false

/-- The words that encipher a text, one ENC per character. -/
def encWords (text : List Byte) : List Word := text.map fun ch => encode (.enc ch)

/-- The upper-case form of a letter; every other character unchanged (42_encode.md R104). -/
def upper (ch : Byte) : Byte :=
  match letterIndex ch with
  | some i => letterChar i
  | none => ch

/-- Two commands reach the same state in either order, from every state. -/
abbrev CommandsCommute (i j : Instr) : Prop :=
  ∀ s : State, ∃ si sj t : State, exec i s = .next si ∧ exec j si = .next t ∧ exec j s = .next sj ∧ exec i sj = .next t

/-- The slot a slot command (LDROT, SETROT, SETRING) writes. -/
def slotWritten : Instr → Option Slot
  | .enc _ => none
  | .wire _ _ => none
  | .ldrot slot _ => some slot
  | .ldrotBetaGamma slot _ => some slot
  | .setrot slot _ => some slot
  | .setring slot _ => some slot
  | .ldref _ => none
  | .setmode _ => none
  | .reset => none

end Sys2Proof.Machine
end

