-- ==== Sys2Proof/Certificates/Slice0/Obligations.lean ====
section
/-!
DEFINITION. The statements for the provers, from the numbered rules of spec/. A docstring names the rule; where the
spec marks that rule as its own inference ("[derived: ...]") the statement's basis is 'derived'.
-/

open Sys2Proof Sys2Proof.Machine

/-! ## Encoding -/

/-- The worked encodings the spec derives in R75 of 30_encoding.md: each assembly line assembles to its word, and the
word decodes to its command. A sanity statement. -/
def Obligations.WorkedEncodingsAssembleAndDecode : Prop :=
  assembleText
      [ ['E', 'N', 'C', ' ', '\'', 'A', '\''],
        ['E', 'N', 'C', ' ', '\'', 'q', '\''],
        ['E', 'N', 'C', ' ', '\'', ' ', '\''],
        ['W', 'I', 'R', 'E', ' ', '\'', 'A', '\'', ',', ' ', '\'', 'Q', '\''],
        ['L', 'D', 'R', 'O', 'T', ' ', '0', ',', ' ', 'I', 'I', 'I'],
        ['L', 'D', 'R', 'O', 'T', ' ', '3', ',', ' ', 'G', 'A', 'M', 'M', 'A'],
        ['S', 'E', 'T', 'R', 'O', 'T', ' ', '1', ',', ' ', '3'],
        ['S', 'E', 'T', 'R', 'O', 'T', ' ', '0', ',', ' ', '-', '1'],
        ['S', 'E', 'T', 'R', 'I', 'N', 'G', ' ', '2', ',', ' ', '2', '7'],
        ['L', 'D', 'R', 'E', 'F', ' ', 'B', 'T', 'H', 'I', 'N'],
        ['S', 'E', 'T', 'M', 'O', 'D', 'E', ' ', 'M', '4'],
        ['R', 'E', 'S', 'E', 'T'] ] =
    some
      [ 0x01000041, 0x01000071, 0x01000020, 0x02410051, 0x03000002, 0x03030009, 0x04010003, 0x0400FFFF, 0x0502001B,
        0x06000002, 0x07000001, 0x08000000 ] ∧
  decode 0x01000041 = .ok (.enc 0x41) ∧ decode 0x01000071 = .ok (.enc 0x71) ∧ decode 0x01000020 = .ok (.enc 0x20) ∧
  decode 0x02410051 = .ok (.wire 0x41 0x51) ∧ decode 0x03000002 = .ok (.ldrot 0 .iii) ∧
  decode 0x03030009 = .ok (.ldrotBetaGamma 3 .gamma) ∧ decode 0x04010003 = .ok (.setrot 1 0x0003) ∧
  decode 0x0400FFFF = .ok (.setrot 0 0xFFFF) ∧ decode 0x0502001B = .ok (.setring 2 0x001B) ∧
  decode 0x06000002 = .ok (.ldref .bThin) ∧ decode 0x07000001 = .ok (.setmode .m4) ∧
  decode 0x08000000 = .ok .reset

/-- The worked illegal words the spec derives in R76 of 30_encoding.md: none decodes, and executing one in any state
answers `(0x00, 1)` and changes nothing else. -/
def Obligations.WorkedIllegalWordsAreRejected : Prop :=
  ∀ w ∈ ([ 0x00000000, 0x09000000, 0xFFFFFFFF, 0x01000141, 0x01010041, 0x02410151, 0x0300000A, 0x0300000F, 0x03040002,
           0x03000012, 0x04040000, 0x06000004, 0x07000002, 0x08000001 ] : List Word),
    decodeTableWord 32 w.toNat = none ∧
      ∀ s : State, execWord w s = .next { s with respValid := true, respChar := 0x00, respIllegal := true }

/-- No bit of an encoding is dropped: the word of every well-formed command decodes to that command, with every
operand at every value its field admits (R61 to R64 of 30_encoding.md). -/
def Obligations.EncodeThenDecodeReturnsTheCommand : Prop :=
  ∀ i : Instr, i.wellFormed = true → decode (encode i) = .ok i ∧ decodeTableWord 32 (encode i).toNat = some i

/-- Every legal word has one meaning and is the encoding of it: the other direction of the round trip. -/
def Obligations.DecodedWordIsTheEncodingOfItsCommand : Prop :=
  ∀ (w : Word) (i : Instr), decode w = .ok i → i.wellFormed = true ∧ encode i = w

/-- R61: a word decodes exactly when it satisfies one row of the opcode table, to a command of that row's mnemonic;
no two rows share a word; `exec(state, cmd)` is `decode` followed by the rule of the decoded command. -/
def Obligations.DecodeAcceptsExactlyTheOpcodeTable : Prop :=
  (∀ (w : Word) (i : Instr), decode w = .ok i →
    ∃ row ∈ opcodeTable, row.admits w = true ∧ row.mnemonic = i.mnemonic) ∧
  (∀ w : Word, (∃ row ∈ opcodeTable, row.admits w = true) → ∃ i, decode w = .ok i) ∧
  (∀ w : Word, ∀ row ∈ opcodeTable, ∀ row' ∈ opcodeTable, row.admits w = true → row'.admits w = true → row = row') ∧
  (∀ (w : Word) (i : Instr) (s : State), decode w = .ok i → execWord w s = exec i s)

/-- The encoding formulas of the mnemonic form (R70 of 30_encoding.md): the word as a number. -/
def Obligations.EncodingFormulas : Prop :=
  (∀ ch, (encode (.enc ch)).toNat = 0x01000000 + ch.toNat) ∧
  (∀ ch1 ch2, (encode (.wire ch1 ch2)).toNat = 0x02000000 + ch1.toNat * 2 ^ 16 + ch2.toNat) ∧
  (∀ slot rotor, (encode (ldrotOf slot rotor)).toNat = 0x03000000 + slot.val * 2 ^ 16 + rotor.code) ∧
  (∀ slot val, (encode (.setrot slot val)).toNat = 0x04000000 + slot.val * 2 ^ 16 + val.toNat) ∧
  (∀ slot val, (encode (.setring slot val)).toNat = 0x05000000 + slot.val * 2 ^ 16 + val.toNat) ∧
  (∀ refl, (encode (.ldref refl)).toNat = 0x06000000 + refl.code) ∧
  (∀ m, (encode (.setmode m)).toNat = 0x07000000 + m.code) ∧
  (encode .reset).toNat = 0x08000000

/-! ## Illegal words, the clock edge, reset -/

/-- R66: a word is illegal exactly when it matches no row, which is to say for one of the reasons listed (the fields
as numbers); executing it changes no machine state and answers `(0x00, ill = 1)`; the next command executes as if the
illegal word had not been presented. -/
def Obligations.IllegalWordChangesNoRegister : Prop :=
  (∀ w : Word, (∃ e, decode w = .error e) ↔ ∀ row ∈ opcodeTable, row.admits w = false) ∧
  (∀ w : Word,
    let op := w.toNat / 2 ^ 24
    let a := w.toNat / 2 ^ 16 % 2 ^ 8
    let b := w.toNat % 2 ^ 16
    (∃ e, decode w = .error e) ↔
      (op = 0 ∨ 8 < op) ∨ (op = 1 ∧ (a ≠ 0 ∨ b / 2 ^ 8 ≠ 0)) ∨ (op = 2 ∧ b / 2 ^ 8 ≠ 0) ∨
      (op = 3 ∧ (a / 4 ≠ 0 ∨ b / 2 ^ 4 ≠ 0 ∨ 10 ≤ b % 2 ^ 4)) ∨ ((op = 4 ∨ op = 5) ∧ a / 4 ≠ 0) ∨
      (op = 6 ∧ (a ≠ 0 ∨ b / 4 ≠ 0)) ∨ (op = 7 ∧ (a ≠ 0 ∨ b / 2 ≠ 0)) ∨ (op = 8 ∧ (a ≠ 0 ∨ b ≠ 0))) ∧
  ∀ (w : Word) (e : IllegalWord) (s : State), decode w = .error e →
    execWord w s = .next { s with respValid := true, respChar := 0x00, respIllegal := true } ∧
    ∀ w' : Word,
      execWord w' { s with respValid := true, respChar := 0x00, respIllegal := true } = execWord w' s

/-- A step runs the decoded command: when the host presents the word `w` to an engine that has been reset, the step is
`exec` of the decoded command at the state with that input taken off the list; an illegal word is answered. -/
def Obligations.StepExecutesThePresentedWord : Prop :=
  ∀ (s : State) (w : Word) (rest : List PortInput), s.hasBeenReset = true → s.inputs = .driven false true w :: rest →
    (∀ i, decode w = .ok i → step s = exec i { s with inputs := rest }) ∧
    (∀ e, decode w = .error e →
      step s = .next { s with inputs := rest, respValid := true, respChar := 0x00, respIllegal := true })

/-- R26: the three arms of a rising edge. Pin reset wins and drops a simultaneous command; a valid command executes
and its response is loaded at the same edge; otherwise state holds and the response registers clear. The last two
arms need an engine that has been reset: before the first reset no rule of the spec applies (R160). -/
def Obligations.ClockEdgeFollowsItsThreeArms : Prop :=
  (∀ (s : State) (v : Bool) (w : Word) (rest : List PortInput), s.inputs = .driven true v w :: rest →
    step s = .next { State.reset with respValid := false, respChar := 0x00, respIllegal := false, inputs := rest }) ∧
  (∀ (s : State) (w : Word) (rest : List PortInput), s.hasBeenReset = true → s.inputs = .driven false true w :: rest →
    ∃ t, execWord w { s with inputs := rest } = .next t ∧ t.respValid = true ∧ step s = .next t) ∧
  (∀ (s : State) (w : Word) (rest : List PortInput), s.hasBeenReset = true → s.inputs = .driven false false w :: rest →
    step s = .next { s with inputs := rest, respValid := false, respChar := 0x00, respIllegal := false })

/-- R140: `exec` returns a next state and a response for every state and every 32-bit word; no step faults. -/
def Obligations.EveryWordGivesANextStateAndAResponse : Prop :=
  (∀ (w : Word) (s : State), ∃ t, execWord w s = .next t ∧ t.respValid = true) ∧
  (∀ (s : State) (f : Fault), step s ≠ .fault f)

/-- When the model refuses a step, exactly: the host breaks a duty, or the engine has not been reset and the edge is
not a pin reset (R147, R160, R166; the model's reading, log entries 2, 3 and 4). -/
def Obligations.StepRefusesOnlyOutsideTheSpec : Prop :=
  ∀ (s : State) (r : Refusal), step s = .refused r ↔
    (∃ duty rest, s.inputs = .broken duty :: rest ∧ r = .hostDutyBroken duty) ∨
    (s.hasBeenReset = false ∧ r = .notReset ∧
      (s.inputs = [] ∨ ∃ v w rest, s.inputs = .driven false v w :: rest))

/-- The pin and the command load the same machine state, from any state, and differ only in the response registers
(R27 and R160; the two rows for the offsets are the spec's decision D7). -/
def Obligations.BothResetsLoadTheSameState : Prop :=
  ∀ (s : State) (v : Bool) (w : Word) (rest : List PortInput), s.inputs = .driven true v w :: rest →
    ∃ p c, step s = .next p ∧ exec .reset s = .next c ∧ SameRegisters p c ∧ p.mode = .m3 ∧
      p.rotorId = #v[.iii, .ii, .i, .beta] ∧ p.rotation = #v[0, 0, 0, 0] ∧ p.ring = #v[0, 0, 0, 0] ∧ p.reflectorId = .b ∧ (∀ i : Letter, p.plug[i] = i) ∧
      (p.respValid = false ∧ response p = ⟨0x00, false⟩) ∧ (c.respValid = true ∧ response c = ⟨0x00, false⟩)

/-- R130: RESET returns every machine register to the start-up value and answers `(0x00, 0)`; from any state, RESET
and five `ENC 'A'` respond B, D, Z, G, O. -/
def Obligations.ResetCommandReturnsToStartUp : Prop :=
  encode .reset = 0x08000000 ∧
  (∀ s : State,
    exec .reset s =
      .next
        { s with
          mode := .m3
          rotorId := #v[.iii, .ii, .i, .beta]
          rotation := #v[0, 0, 0, 0]
          ring := #v[0, 0, 0, 0]
          reflectorId := .b
          plug := Vector.ofFn fun i => i
          respValid := true
          respChar := 0x00
          respIllegal := false }) ∧
  (∀ (s : State) (v : Bool) (w : Word), ∃ p c, step { s with inputs := .driven true v w :: s.inputs } = .next p ∧
    exec .reset s = .next c ∧ SameRegisters p c) ∧
  (∀ s : State, ∃ t,
    runWords [0x08000000, 0x01000041, 0x01000041, 0x01000041, 0x01000041, 0x01000041] s =
      .next (t, [⟨0x00, false⟩, ⟨0x42, false⟩, ⟨0x44, false⟩, ⟨0x5A, false⟩, ⟨0x47, false⟩, ⟨0x4F, false⟩]))

/-! ## ENC -/

/-- R100: ENC, its encoding, a non-letter, a letter, the corner cases (case is ignored; no letter answers itself) and
the example. The letter's stepped rotations are written out from the stepping pseudocode of R90 and the signal path
stage by stage, for M3 and for M4. -/
def Obligations.EncEnciphersThroughTheSteppedPath : Prop :=
  (∀ ch : Byte, (encode (.enc ch)).toNat = 0x01000000 + ch.toNat) ∧
  (∀ (s : State) (ch : Byte), isLetter ch = false →
    exec (.enc ch) s = .next { s with respValid := true, respChar := ch, respIllegal := false }) ∧
  (∀ (s : State) (ch : Byte) (i : Letter), letterIndex ch = some i →
    let carry1 : Letter := if s.rotation[1] ∈ engineConfig.notch s.rotorId[1] then 1 else 0
    let carry0 : Letter := if s.rotation[0] ∈ engineConfig.notch s.rotorId[0] then 1 else 0
    let r0 := s.rotation[0] + 1
    let r1 := s.rotation[1] + carry1 + carry0
    let r2 := s.rotation[2] + carry1
    let r3 := s.rotation[3]
    let f0 := applyForward engineConfig s.rotorId[0] r0 s.ring[0]
    let f1 := applyForward engineConfig s.rotorId[1] r1 s.ring[1]
    let f2 := applyForward engineConfig s.rotorId[2] r2 s.ring[2]
    let f3 := applyForward engineConfig s.rotorId[3] r3 s.ring[3]
    let b0 := applyInverse engineConfig s.rotorId[0] r0 s.ring[0]
    let b1 := applyInverse engineConfig s.rotorId[1] r1 s.ring[1]
    let b2 := applyInverse engineConfig s.rotorId[2] r2 s.ring[2]
    let b3 := applyInverse engineConfig s.rotorId[3] r3 s.ring[3]
    let u := reflect engineConfig s.reflectorId
    let out : Letter :=
      match s.mode with
      | .m3 => s.plug[b0 (b1 (b2 (u (f2 (f1 (f0 s.plug[i]))))))]
      | .m4 => s.plug[b0 (b1 (b2 (b3 (u (f3 (f2 (f1 (f0 s.plug[i]))))))))]
    exec (.enc ch) s =
      .next
        { s with
          rotation := #v[r0, r1, r2, r3], respValid := true, respChar := letterChar out, respIllegal := false }) ∧
  (∀ (s : State) (upperCh lowerCh : Byte), isUpper upperCh = true → lowerCh.toNat = upperCh.toNat + 0x20 →
    ∃ t, exec (.enc upperCh) s = .next t ∧ exec (.enc lowerCh) s = .next t) ∧
  (∀ (s : State) (ch : Byte) (i : Letter), PlugInvolution s.plug → letterIndex ch = some i →
    ∃ t, exec (.enc ch) s = .next t ∧ t.respChar ≠ letterChar i) ∧
  exec (.enc 0x41) State.reset =
    .next { State.reset with rotation := #v[1, 0, 0, 0], respValid := true, respChar := 0x42, respIllegal := false } ∧
  (plugLookup State.reset.plug 0 = 0 ∧ applyForward engineConfig .iii 1 0 0 = 2 ∧ applyForward engineConfig .ii 0 0 2 = 3 ∧
    applyForward engineConfig .i 0 0 3 = 5 ∧ reflect engineConfig .b 5 = 18 ∧ applyInverse engineConfig .i 0 0 18 = 18 ∧
    applyInverse engineConfig .ii 0 0 18 = 4 ∧ applyInverse engineConfig .iii 1 0 4 = 1 ∧
    plugLookup State.reset.plug 1 = 1)

/-- R86: which codes are letters, the index of a letter of either case, the character of an index, the examples. -/
def Obligations.CharactersFollowTheCodeRanges : Prop :=
  (∀ ch : Byte, isLetter ch = true ↔
    (0x41 ≤ ch.toNat ∧ ch.toNat ≤ 0x5A) ∨ (0x61 ≤ ch.toNat ∧ ch.toNat ≤ 0x7A)) ∧
  (∀ ch : Byte, 0x41 ≤ ch.toNat → ch.toNat ≤ 0x5A →
    ∃ i : Letter, letterIndex ch = some i ∧ i.val = ch.toNat - 0x41) ∧
  (∀ ch : Byte, 0x61 ≤ ch.toNat → ch.toNat ≤ 0x7A →
    ∃ i : Letter, letterIndex ch = some i ∧ i.val = ch.toNat - 0x61) ∧
  (∀ ch : Byte, isLetter ch = false → letterIndex ch = none) ∧
  (∀ i : Letter, (letterChar i).toNat = 0x41 + i.val) ∧
  (letterIndex 0x41 = some 0 ∧ letterIndex 0x7A = some 25 ∧ letterChar 25 = 0x5A ∧ isLetter 0x40 = false ∧
    isLetter 0x5B = false ∧ isLetter 0x60 = false ∧ isLetter 0x7B = false ∧ isLetter 0xC4 = false)

/-- The arithmetic laws A2 to A5 of R85 of 40_wheel_math.md, as numbers, and the table A6. -/
def Obligations.LetterArithmeticFollowsItsLaws : Prop :=
  (∀ x y : Letter, (addLetter x y).val = if x.val + y.val < 26 then x.val + y.val else x.val + y.val - 26) ∧
  (∀ x y : Letter, (subLetter x y).val = if y ≤ x then x.val - y.val else x.val + 26 - y.val) ∧
  (∀ r : Letter, (nextLetter r).val = if r.val < 25 then r.val + 1 else 0) ∧
  (∀ (v : Int) (r : Letter), fmod26 v = r ↔ (26 : Int) ∣ v - (r.val : Int)) ∧
  (∀ p ∈ ([ (0, 0), (1, 1), (25, 25), (26, 0), (27, 1), (51, 25), (52, 0), (100, 22), (1000, 12), (32767, 7), (-1, 25),
      (-2, 24), (-25, 1), (-26, 0), (-27, 25), (-52, 0), (-53, 25), (-1000, 14), (-32768, 18) ] : List (Int × Letter)),
    fmod26 p.1 = p.2 ∧ offsetLetter (BitVec.ofInt 16 p.1) = p.2)

/-- R105: a non-letter is returned unchanged and steps nothing; non-letters between letters do not alter the responses
to the letters. -/
def Obligations.NonLettersPassThroughWithoutStepping : Prop :=
  (∀ (s : State) (ch : Byte), isLetter ch = false →
    exec (.enc ch) s = .next { s with respValid := true, respChar := ch, respIllegal := false }) ∧
  (∀ (s : State) (text : List Byte), ∃ t rs t' rs',
    runWords (encWords text) s = .next (t, rs) ∧
    runWords (encWords (text.filter isLetter)) s = .next (t', rs') ∧
    SameRegisters t t' ∧
    ((text.zip rs).filter fun p => isLetter p.1).map Prod.snd = rs')

/-- R24: the response table. -/
def Obligations.ResponsesFollowTheTable : Prop :=
  ∀ s : State,
    (∀ (ch : Byte) (i : Letter), letterIndex ch = some i → ∃ t, exec (.enc ch) s = .next t ∧
      t.respChar = letterChar (path engineConfig (stepRack engineConfig s) i) ∧
      0x41 ≤ t.respChar.toNat ∧ t.respChar.toNat ≤ 0x5A ∧ t.respIllegal = false ∧ t.respValid = true) ∧
    (∀ ch : Byte, isLetter ch = false → ∃ t, exec (.enc ch) s = .next t ∧
      response t = ⟨ch, false⟩ ∧ t.respValid = true) ∧
    (∀ i : Instr, (∀ ch, i ≠ .enc ch) → ∃ t, exec i s = .next t ∧ response t = ⟨0x00, false⟩ ∧ t.respValid = true) ∧
    (∀ (w : Word) (e : IllegalWord), decode w = .error e → ∃ t, execWord w s = .next t ∧
      response t = ⟨0x00, true⟩ ∧ t.respValid = true)

/-! ## Stepping -/

/-- The closed stepping table the spec derives in R91 of 41_rack_stepping.md, read off a keystroke. The last row
is the spec's decision D12 (`BOTH_NOTCH_ADVANCE` = 2). -/
def Obligations.KeystrokeFollowsTheStepTable : Prop :=
  ∀ (s : State) (ch : Byte), isLetter ch = true → ∃ t, exec (.enc ch) s = .next t ∧
    t.rotation[0] = s.rotation[0] + 1 ∧ t.rotation[3] = s.rotation[3] ∧
    (s.rotation[1] ∉ engineConfig.notch s.rotorId[1] → s.rotation[0] ∉ engineConfig.notch s.rotorId[0] →
      t.rotation[1] = s.rotation[1] ∧ t.rotation[2] = s.rotation[2]) ∧
    (s.rotation[1] ∉ engineConfig.notch s.rotorId[1] → s.rotation[0] ∈ engineConfig.notch s.rotorId[0] →
      t.rotation[1] = s.rotation[1] + 1 ∧ t.rotation[2] = s.rotation[2]) ∧
    (s.rotation[1] ∈ engineConfig.notch s.rotorId[1] → s.rotation[0] ∉ engineConfig.notch s.rotorId[0] →
      t.rotation[1] = s.rotation[1] + 1 ∧ t.rotation[2] = s.rotation[2] + 1) ∧
    (s.rotation[1] ∈ engineConfig.notch s.rotorId[1] → s.rotation[0] ∈ engineConfig.notch s.rotorId[0] →
      t.rotation[1] = s.rotation[1] + 2 ∧ t.rotation[2] = s.rotation[2] + 1)

/-- R94, for every configuration that meets R41 and in either mode: `rotation[3]` is never written by a keystroke;
`rotation[2]` changes only with the middle rotor on its notch; the notch sets of the rotors in slots 2
and 3 are never consulted; Beta and Gamma have no notch and stand only in slot 3. -/
def Obligations.SlotThreeAndTheSlowNotchNeverMatter : Prop :=
  ∀ cfg : Config, cfg.WF → ∀ s : State,
    (stepRack cfg s).rotation[3] = s.rotation[3] ∧
    ((stepRack cfg s).rotation[2] ≠ s.rotation[2] → s.rotation[1] ∈ cfg.notch s.rotorId[1]) ∧
    (∀ rotor : RotorId, (stepRack cfg (setRotorId 2 rotor s)).rotation = (stepRack cfg s).rotation ∧
      (stepRack cfg (setRotorId 3 rotor s)).rotation = (stepRack cfg s).rotation) ∧
    (cfg.notch .beta = [] ∧ cfg.notch .gamma = []) ∧
    (SlotsFit s → ∀ slot : Slot, s.rotorId[slot] = .beta ∨ s.rotorId[slot] = .gamma → slot = 3)

/-- R97: the source's own stepping examples, simple carry and double step, as keystrokes. -/
def Obligations.SourceSteppingExamples : Prop :=
  (∀ (s : State) (ch : Byte), isLetter ch = true → (21 : Letter) ∈ engineConfig.notch s.rotorId[0] →
    (10 : Letter) ∉ engineConfig.notch s.rotorId[1] → s.rotation[0] = 21 → s.rotation[1] = 10 →
    ∃ t, exec (.enc ch) s = .next t ∧ t.rotation[0] = 22 ∧ t.rotation[1] = 11 ∧ t.rotation[2] = s.rotation[2]) ∧
  (∀ (s : State) (ch : Byte), isLetter ch = true → s.rotation[1] ∈ engineConfig.notch s.rotorId[1] →
    s.rotation[0] ∉ engineConfig.notch s.rotorId[0] →
    ∃ t, exec (.enc ch) s = .next t ∧ t.rotation[1] = s.rotation[1] + 1 ∧ (s.rotation[1] = 4 → t.rotation[1] = 5) ∧
      t.rotation[2] = s.rotation[2] + 1 ∧ t.rotation[0] = s.rotation[0] + 1)

/-- With the notch sets of R45 no keystroke leaves both slot 0 and slot 1 on a notch, from any state (a sentence of
R93, 41_rack_stepping.md); so the open parameter of D12 matters only where a host sets the case up. -/
def Obligations.KeystrokeNeverLeavesBothOnANotch : Prop :=
  ∀ (s : State) (ch : Byte), isLetter ch = true → ∃ t, exec (.enc ch) s = .next t ∧
    ¬ (t.rotation[0] ∈ engineConfig.notch t.rotorId[0] ∧ t.rotation[1] ∈ engineConfig.notch t.rotorId[1])

/-- The period the spec derives in R95 of 41_rack_stepping.md: from reset the rotations return to all 0 after exactly
16900 keystrokes, and not before. -/
def Obligations.RackReturnsAfterExactly16900Keystrokes : Prop :=
  ∀ text : List Byte, (∀ ch ∈ text, isLetter ch = true) → ∃ t rs,
    runWords (encWords text) State.reset = .next (t, rs) ∧
    (text.length = 16900 → t.rotation = #v[0, 0, 0, 0]) ∧
    (0 < text.length → text.length < 16900 → t.rotation ≠ #v[0, 0, 0, 0])

/-- A keystroke's stepping reads the rotors of slots 0 and 1 and the rotations of slots 0, 1, 2 only: not the mode,
the ring settings, the reflector, the plugboard, slot 3, the rotor of slot 2 or the letter (R90, "Not read"). -/
def Obligations.SteppingReadsOnlyItsOwnInputs : Prop :=
  ∀ (s s' : State) (ch ch' : Byte), isLetter ch = true → isLetter ch' = true →
    s'.rotorId[0] = s.rotorId[0] → s'.rotorId[1] = s.rotorId[1] → s'.rotation[0] = s.rotation[0] →
    s'.rotation[1] = s.rotation[1] → s'.rotation[2] = s.rotation[2] →
    ∃ t t', exec (.enc ch) s = .next t ∧ exec (.enc ch') s' = .next t' ∧ t'.rotation[0] = t.rotation[0] ∧
      t'.rotation[1] = t.rotation[1] ∧ t'.rotation[2] = t.rotation[2]

/-! ## The signal path -/

/-- The laws L1 to L4 the spec derives in R84 of 40_wheel_math.md, for every configuration that meets R41. Addition
and subtraction of letters are modulo 26. -/
def Obligations.WheelLawsHoldOfEveryConfiguration : Prop :=
  ∀ cfg : Config, cfg.WF → ∀ (id : RotorId) (rot ring : Letter),
    (∀ i, applyForward cfg id rot ring i = cfg.rotorFwd id (i + (rot - ring)) - (rot - ring)) ∧
    (∀ i, applyInverse cfg id rot ring i = cfg.rotorInv id (i + (rot - ring)) - (rot - ring)) ∧
    (∀ i, applyInverse cfg id rot ring (applyForward cfg id rot ring i) = i) ∧
    (∀ i, applyForward cfg id rot ring (applyInverse cfg id rot ring i) = i) ∧
    Function.Bijective (applyForward cfg id rot ring) ∧
    (rot = ring → ∀ i, applyForward cfg id rot ring i = cfg.rotorFwd id i)

/-- The path is an involution at every state whose plugboard is one, for every configuration that meets R41
(derived by the spec in R103 of 42_encode.md). -/
def Obligations.PathIsAnInvolution : Prop :=
  ∀ cfg : Config, cfg.WF → ∀ s : State, PlugInvolution s.plug → ∀ i : Letter, path cfg s (path cfg s i) = i

/-- Reciprocity over a text (derived by the spec in R104 of 42_encode.md): two engines in the same state; the second,
fed the first one's responses, answers the first one's text in upper case and ends in the same state. -/
def Obligations.CipherIsReciprocalOverTexts : Prop :=
  ∀ (s s' : State) (text : List Byte), SameRegisters s s' → PlugInvolution s.plug → ∃ t rs t' rs',
    runWords (encWords text) s = .next (t, rs) ∧
    runWords (encWords (rs.map Response.char)) s' = .next (t', rs') ∧
    rs'.map Response.char = text.map upper ∧ CleanRun rs ∧ CleanRun rs' ∧ SameRegisters t t'

/-- No path maps a letter to itself if no reflector has a fixed point, and none of the engine's has (derived by the spec
in R106 of 42_encode.md; the tables are general knowledge, log entry 6). -/
def Obligations.NoLetterEnciphersToItself : Prop :=
  (∀ cfg : Config, cfg.WF → ReflectorsMoveEveryLetter cfg → ∀ s : State, PlugInvolution s.plug →
    ∀ i : Letter, path cfg s i ≠ i) ∧
  ReflectorsMoveEveryLetter engineConfig

/-- M4 with Beta and B-thin (Gamma and C-thin) at `rotation[3] = ring[3]` enciphers every text as M3 with B (C) and
the same slots 0..2 (derived by the spec in R107 of 42_encode.md from its tables, log entry 6). -/
def Obligations.FourthRotorWithThinReflectorMatchesM3 : Prop :=
  ∀ (s : State) (text : List Byte), s.mode = .m4 → s.rotation[3] = s.ring[3] →
    (s.rotorId[3] = .beta → s.reflectorId = .bThin → ∃ t t' rs,
      runWords (encWords text) s = .next (t, rs) ∧
      runWords (encWords text) { s with mode := .m3, reflectorId := .b } = .next (t', rs)) ∧
    (s.rotorId[3] = .gamma → s.reflectorId = .cThin → ∃ t t' rs,
      runWords (encWords text) s = .next (t, rs) ∧
      runWords (encWords text) { s with mode := .m3, reflectorId := .c } = .next (t', rs))

/-- R21: slot 3 exists in both modes. In M3, ENC neither reads nor writes it; LDROT, SETROT and SETRING on slot 3 take
effect in either mode alike; SETMODE changes none of the slots. -/
def Obligations.SlotThreeIsKeptInBothModes : Prop :=
  (∀ (s s' : State) (ch : Byte), s.mode = .m3 → SameButSlot3 s s' → ∃ t t',
    exec (.enc ch) s = .next t ∧ exec (.enc ch) s' = .next t' ∧ response t' = response t ∧ SameButSlot3 t t' ∧
    t.rotorId[3] = s.rotorId[3] ∧ t.rotation[3] = s.rotation[3] ∧ t.ring[3] = s.ring[3]) ∧
  (∀ (s : State) (m : Mode) (i : Instr), slotWritten i = some 3 → ∃ t,
    exec i s = .next t ∧ exec i { s with mode := m } = .next { t with mode := m }) ∧
  (∀ (s : State) (m : Mode), ∃ t, exec (.setmode m) s = .next t ∧ t.rotorId = s.rotorId ∧
    t.rotation = s.rotation ∧ t.ring = s.ring)

/-! ## Configuration commands -/

/-- R122: SETROT stores `fmod26(sext_16(val))` in `rotation[slot]` and nothing else, in every state; with its encoding,
its corner cases (on slot 3 in M3 no later character is answered differently) and its example. -/
def Obligations.SetrotStoresTheFlooredResidue : Prop :=
  (∀ slot val, (encode (.setrot slot val)).toNat = 0x04000000 + slot.val * 2 ^ 16 + val.toNat) ∧
  (∀ (s : State) (slot : Slot) (val : Offset), ∃ r : Letter,
    (r.val : Int) = val.toInt - 26 * Int.fdiv val.toInt 26 ∧
    exec (.setrot slot val) s =
      .next
        { s with rotation := s.rotation.set slot.val r, respValid := true, respChar := 0x00, respIllegal := false }) ∧
  (∀ (s : State) (slot : Slot), ∀ p ∈ ([(0x001A, 0), (0xFFFF, 25), (0x8000, 18), (0x7FFF, 7), (0x001E, 4)] : List (Offset × Letter)),
    ∃ t, exec (.setrot slot p.1) s = .next t ∧ t.rotation[slot] = p.2) ∧
  (∀ (s : State) (val : Offset) (text : List Byte), s.mode = .m3 → ∃ t u v answers,
    exec (.setrot 3 val) s = .next t ∧ runWords (encWords text) s = .next (u, answers) ∧
    runWords (encWords text) t = .next (v, answers))

/-- R124: SETRING stores `fmod26(sext_16(val))` in `ring[slot]` and nothing else, in every state; with its encoding,
its corner cases (on slot 3 in M3 no later character is answered differently; a later LDROT keeps it; it never changes
the stepping) and its example. -/
def Obligations.SetringStoresTheFlooredResidue : Prop :=
  (∀ slot val, (encode (.setring slot val)).toNat = 0x05000000 + slot.val * 2 ^ 16 + val.toNat) ∧
  (∀ (s : State) (slot : Slot) (val : Offset), ∃ r : Letter,
    (r.val : Int) = val.toInt - 26 * Int.fdiv val.toInt 26 ∧
    exec (.setring slot val) s =
      .next { s with ring := s.ring.set slot.val r, respValid := true, respChar := 0x00, respIllegal := false }) ∧
  (∀ (s : State) (slot : Slot), ∀ p ∈ ([(0x001A, 0), (0xFFFF, 25), (0x8000, 18), (0x7FFF, 7), (0x001B, 1)] : List (Offset × Letter)),
    ∃ t, exec (.setring slot p.1) s = .next t ∧ t.ring[slot] = p.2) ∧
  (∀ (s : State) (val : Offset) (text : List Byte), s.mode = .m3 → ∃ t u v answers,
    exec (.setring 3 val) s = .next t ∧ runWords (encWords text) s = .next (u, answers) ∧
    runWords (encWords text) t = .next (v, answers)) ∧
  (∀ (s : State) (slot : Slot) (val : Offset) (rotor : RotorId), ∃ t u, exec (.setring slot val) s = .next t ∧
    exec (ldrotOf slot rotor) t = .next u ∧ u.ring = t.ring ∧
    (stepRack engineConfig t).rotation = (stepRack engineConfig s).rotation)

/-- Any integer a host reduces itself gives the same result as the integer would (R64 of 30_encoding.md): the operand
`offsetOperand v` stores the residue of `v`, and operands with the same residue are interchangeable. -/
def Obligations.HostReducedOffsetsGiveTheSameResult : Prop :=
  (∀ (s : State) (slot : Slot) (v : Int), ∃ r : Letter, (r.val : Int) = v % 26 ∧
    exec (.setrot slot (offsetOperand v)) s =
      .next { s with rotation := s.rotation.set slot.val r, respValid := true, respChar := 0x00, respIllegal := false } ∧
    exec (.setring slot (offsetOperand v)) s =
      .next { s with ring := s.ring.set slot.val r, respValid := true, respChar := 0x00, respIllegal := false }) ∧
  (∀ (s : State) (slot : Slot) (val val' : Offset), val.toInt % 26 = val'.toInt % 26 →
    (∃ t, exec (.setrot slot val) s = .next t ∧ exec (.setrot slot val') s = .next t) ∧
    (∃ t, exec (.setring slot val) s = .next t ∧ exec (.setring slot val') s = .next t))

/-- R120: LDROT writes `rotor_id[slot]` if slot and rotor are compatible and nothing otherwise; the slot's offsets are
kept; the mode and the other slots are not tested. Both opcode-table rows. -/
def Obligations.LdrotWritesOnlyACompatibleRotor : Prop :=
  (∀ slot rotor, (encode (ldrotOf slot rotor)).toNat = 0x03000000 + slot.val * 2 ^ 16 + rotor.code) ∧
  (∀ (s : State) (slot : Slot) (rotor : RotorId),
    let loaded :=
      if (slot = 3 ∧ (rotor.code = 8 ∨ rotor.code = 9)) ∨ ((slot = 0 ∨ slot = 1 ∨ slot = 2) ∧ rotor.code ≤ 7) then
        s.rotorId.set slot.val rotor
      else s.rotorId
    exec (.ldrot slot rotor) s =
      .next { s with rotorId := loaded, respValid := true, respChar := 0x00, respIllegal := false } ∧
    exec (.ldrotBetaGamma slot rotor) s =
      .next { s with rotorId := loaded, respValid := true, respChar := 0x00, respIllegal := false }) ∧
  (∃ t u, exec (ldrotOf 0 .v) State.reset = .next t ∧ t.rotorId[0] = .v ∧
    exec (ldrotOf 0 .beta) t = .next u ∧ u.rotorId[0] = .v)

/-- R126: LDREF writes `reflector_id` when the thin bit of the code equals the mode, and nothing otherwise; with its
encoding and its example. -/
def Obligations.LdrefLoadsOnlyAMatchingReflector : Prop :=
  (∀ refl, (encode (.ldref refl)).toNat = 0x06000000 + refl.code) ∧
  (∀ (s : State) (refl : ReflectorId),
    exec (.ldref refl) s =
      .next
        { s with
          reflectorId := if refl.code / 2 = s.mode.code then refl else s.reflectorId
          respValid := true
          respChar := 0x00
          respIllegal := false }) ∧
  (∃ t u, exec (.ldref .c) State.reset = .next t ∧ t.reflectorId = .c ∧
    exec (.ldref .bThin) t = .next u ∧ u.reflectorId = .c)

/-- R128: SETMODE writes `mode` and the thin bit of the reflector, `reflector_id <- {m, reflector_id[0]}`, and nothing
else; setting the mode the engine is already in changes nothing; with its encoding and its example. -/
def Obligations.SetmodeRepairsTheReflector : Prop :=
  (∀ m, (encode (.setmode m)).toNat = 0x07000000 + m.code) ∧
  (∀ (s : State) (m : Mode), ∃ refl : ReflectorId, refl.code = 2 * m.code + s.reflectorId.code % 2 ∧
    exec (.setmode m) s =
      .next { s with mode := m, reflectorId := refl, respValid := true, respChar := 0x00, respIllegal := false }) ∧
  (∀ s : State, ReflectorFits s →
    exec (.setmode s.mode) s = .next { s with respValid := true, respChar := 0x00, respIllegal := false }) ∧
  (∃ t, exec (.setmode .m4) State.reset = .next t ∧ t.mode = .m4 ∧ t.reflectorId = .bThin ∧ t.rotorId[3] = .beta ∧
    t.rotation[3] = 0 ∧ t.ring[3] = 0)

/-- Switching the mode and back restores the reflector, and in between its counterpart stands (the table the spec
derives in R129 of 44_configuration.md). -/
def Obligations.SwitchingModesBackRestoresTheReflector : Prop :=
  ∀ (s : State) (m : Mode), ReflectorFits s → ∃ t u,
    exec (.setmode m) s = .next t ∧ exec (.setmode s.mode) t = .next u ∧ ReflectorFits t ∧
    (m ≠ s.mode → t.reflectorId ≠ s.reflectorId) ∧ SameRegisters s u

/-- The commutation table the spec derives in R133 of 44_configuration.md, with its exceptions. -/
def Obligations.ConfigurationCommandsCommute : Prop :=
  (∀ (i j : Instr) (a b : Slot), slotWritten i = some a → slotWritten j = some b → a ≠ b → CommandsCommute i j) ∧
  (∀ (slot : Slot) (rotor : RotorId) (val val' : Offset),
    CommandsCommute (.setrot slot val) (.setring slot val') ∧
    CommandsCommute (.setrot slot val) (ldrotOf slot rotor) ∧
    CommandsCommute (.setring slot val) (ldrotOf slot rotor)) ∧
  (∀ (ch1 ch2 : Byte) (slot : Slot) (rotor : RotorId) (val : Offset) (refl : ReflectorId) (m : Mode),
    CommandsCommute (.wire ch1 ch2) (ldrotOf slot rotor) ∧ CommandsCommute (.wire ch1 ch2) (.setrot slot val) ∧
    CommandsCommute (.wire ch1 ch2) (.setring slot val) ∧ CommandsCommute (.wire ch1 ch2) (.ldref refl) ∧
    CommandsCommute (.wire ch1 ch2) (.setmode m)) ∧
  ¬ CommandsCommute (.setmode .m4) (.ldref .c) ∧ ¬ CommandsCommute .reset (.wire 0x41 0x42)

/-! ## WIRE -/

/-- R110: WIRE, its encoding, a non-letter operand, two letters with the edit written out assignment by assignment,
and the example. -/
def Obligations.WireRemovesThenInstalls : Prop :=
  (∀ ch1 ch2, (encode (.wire ch1 ch2)).toNat = 0x02000000 + ch1.toNat * 2 ^ 16 + ch2.toNat) ∧
  (∀ (s : State) (ch1 ch2 : Byte), isLetter ch1 = false ∨ isLetter ch2 = false →
    exec (.wire ch1 ch2) s = .next { s with respValid := true, respChar := 0x00, respIllegal := false }) ∧
  (∀ (s : State) (ch1 ch2 : Byte) (a b : Letter), letterIndex ch1 = some a → letterIndex ch2 = some b →
    let p0 : Letter → Letter := fun i => s.plug[i]
    let pa := p0 a
    let p2 := Function.update (Function.update p0 pa pa) a a
    let pb := p2 b
    let p4 := Function.update (Function.update p2 pb pb) b b
    let p6 := Function.update (Function.update p4 a b) b a
    exec (.wire ch1 ch2) s =
      .next { s with plug := Vector.ofFn p6, respValid := true, respChar := 0x00, respIllegal := false }) ∧
  (∃ t, exec (.wire 0x41 0x51) State.reset = .next t ∧ t.plug[0] = 16 ∧ t.plug[16] = 0 ∧
    ∀ i : Letter, i ≠ 0 → i ≠ 16 → t.plug[i] = i)

/-- On an involution WIRE has a closed form: the two letters are paired, their former partners are freed, every other
letter keeps its partner (the cases the spec derives in R111 of 43_plugboard.md). -/
def Obligations.WireOnAnInvolutionInClosedForm : Prop :=
  ∀ (s : State) (ch1 ch2 : Byte) (a b : Letter), PlugInvolution s.plug → letterIndex ch1 = some a →
    letterIndex ch2 = some b → ∃ t, exec (.wire ch1 ch2) s = .next t ∧
      ∀ i : Letter, t.plug[i] =
        if i = a then b else if i = b then a
        else if s.plug[i] = a ∨ s.plug[i] = b then i else s.plug[i]

/-- WIRE keeps the plugboard an involution (derived by the spec in R112 of 43_plugboard.md). -/
def Obligations.WireKeepsThePlugboardAnInvolution : Prop :=
  ∀ (s : State) (ch1 ch2 : Byte), PlugInvolution s.plug →
    ∃ t, exec (.wire ch1 ch2) s = .next t ∧ PlugInvolution t.plug

/-- WIRE is symmetric in its operands (derived by the spec in R113 of 43_plugboard.md). -/
def Obligations.WireIsSymmetric : Prop :=
  ∀ (s : State) (ch1 ch2 : Byte), PlugInvolution s.plug →
    ∃ t, exec (.wire ch1 ch2) s = .next t ∧ exec (.wire ch2 ch1) s = .next t

/-- R114: the source's own plugboard example, from reset. -/
def Obligations.SourcePlugboardExample : Prop :=
  ∃ t u v, exec (.wire 0x41 0x51) State.reset = .next t ∧ exec (.wire 0x41 0x5A) t = .next u ∧
    exec (.wire 0x41 0x41) u = .next v ∧
    (t.plug[0] = 16 ∧ t.plug[16] = 0) ∧
    (u.plug[0] = 25 ∧ u.plug[25] = 0 ∧ u.plug[16] = 16) ∧
    (v.plug[0] = 0 ∧ v.plug[25] = 25 ∧ ∀ i : Letter, v.plug[i] = i)

/-- From any state every involution of the 26 letters, whatever the number of its pairs, is reached by a sequence of
WIREs that touches nothing but the plugboard (derived by the spec in R113 of 43_plugboard.md). -/
def Obligations.EveryInvolutionIsReachableByWires : Prop :=
  ∀ (s : State) (target : Vector Letter 26), PlugInvolution target → ∃ (pairs : List (Byte × Byte)) (t : State)
    (rs : List Response), runWords (pairs.map fun p => encode (.wire p.1 p.2)) s = .next (t, rs) ∧
      t.plug = target ∧ t.mode = s.mode ∧ t.rotorId = s.rotorId ∧ t.rotation = s.rotation ∧ t.ring = s.ring ∧
      t.reflectorId = s.reflectorId

/-! ## Frames and invariants -/

/-- The closed table of which command may write which state (derived by the spec in R29 of 10_state.md), for every
command: it completes, and every register it may not write is unchanged. (The row of the illegal word is
IllegalWordChangesNoRegister.) -/
def Obligations.CommandsWriteOnlyTheirRegisters : Prop :=
  ∀ (i : Instr) (s : State), ∃ t, exec i s = .next t ∧ t.hasBeenReset = s.hasBeenReset ∧ t.inputs = s.inputs ∧
    match i with
    | .enc ch =>
      (isLetter ch = false → t.rotation = s.rotation) ∧ t.rotation[3] = s.rotation[3] ∧ t.ring = s.ring ∧
      t.rotorId = s.rotorId ∧ t.mode = s.mode ∧ t.reflectorId = s.reflectorId ∧ t.plug = s.plug
    | .wire ch1 ch2 =>
      t.rotation = s.rotation ∧ t.ring = s.ring ∧ t.rotorId = s.rotorId ∧ t.mode = s.mode ∧
      t.reflectorId = s.reflectorId ∧ (isLetter ch1 = false ∨ isLetter ch2 = false → t.plug = s.plug) ∧
      ∀ a b k : Letter, letterIndex ch1 = some a → letterIndex ch2 = some b →
        k ≠ a → k ≠ b → k ≠ s.plug[a] → k ≠ s.plug[b] → t.plug[k] = s.plug[k]
    | .ldrot slot _ =>
      t.rotation = s.rotation ∧ t.ring = s.ring ∧ (∀ k : Slot, k ≠ slot → t.rotorId[k] = s.rotorId[k]) ∧
      t.mode = s.mode ∧ t.reflectorId = s.reflectorId ∧ t.plug = s.plug
    | .ldrotBetaGamma slot _ =>
      t.rotation = s.rotation ∧ t.ring = s.ring ∧ (∀ k : Slot, k ≠ slot → t.rotorId[k] = s.rotorId[k]) ∧
      t.mode = s.mode ∧ t.reflectorId = s.reflectorId ∧ t.plug = s.plug
    | .setrot slot _ =>
      (∀ k : Slot, k ≠ slot → t.rotation[k] = s.rotation[k]) ∧ t.ring = s.ring ∧ t.rotorId = s.rotorId ∧
      t.mode = s.mode ∧ t.reflectorId = s.reflectorId ∧ t.plug = s.plug
    | .setring slot _ =>
      t.rotation = s.rotation ∧ (∀ k : Slot, k ≠ slot → t.ring[k] = s.ring[k]) ∧ t.rotorId = s.rotorId ∧
      t.mode = s.mode ∧ t.reflectorId = s.reflectorId ∧ t.plug = s.plug
    | .ldref _ =>
      t.rotation = s.rotation ∧ t.ring = s.ring ∧ t.rotorId = s.rotorId ∧ t.mode = s.mode ∧ t.plug = s.plug
    | .setmode _ =>
      t.rotation = s.rotation ∧ t.ring = s.ring ∧ t.rotorId = s.rotorId ∧
      t.reflectorId.code % 2 = s.reflectorId.code % 2 ∧ t.plug = s.plug
    | .reset => True

/-- The reset state satisfies the invariants INV1 to INV4 (derived by the spec in R28 of 10_state.md). -/
def Obligations.ResetStateSatisfiesTheInvariants : Prop :=
  Inv State.reset ∧ InvAfterReset State.reset ∧
    ∀ slot : Slot, State.reset.rotation[slot].val < 26 ∧ State.reset.ring[slot].val < 26

/-- Every command, legal or illegal, keeps the invariants (derived by the spec in R20 of 10_state.md). -/
def Obligations.EveryCommandKeepsTheInvariants : Prop :=
  ∀ (w : Word) (s : State), Inv s → ∃ t, execWord w s = .next t ∧ Inv t

/-- Every step keeps the invariants, from every state in which they hold once the engine has been reset, whatever the
host drives; and every next state is one of an engine that has been reset. -/
def Obligations.EveryStepKeepsTheInvariants : Prop :=
  ∀ s t : State, InvAfterReset s → step s = .next t → InvAfterReset t ∧ t.hasBeenReset = true ∧ Inv t

/-! ## Ports, text forms, runs -/

/-- The output ports show the registers: every slot and every plugboard entry in its bits, `cmd_ready` constantly 1
(R23 to R25, 10_state.md section 5). -/
def Obligations.ObservationPortsShowTheRegisters : Prop :=
  ∀ s : State,
    (outputPorts s).cmdReady = 1 ∧ (outputPorts s).respValid = BitVec.ofBool s.respValid ∧
    (outputPorts s).respChar = s.respChar ∧ (outputPorts s).respIllegal = BitVec.ofBool s.respIllegal ∧
    (outputPorts s).obsMode.toNat = s.mode.code ∧ (outputPorts s).obsReflector.toNat = s.reflectorId.code ∧
    (∀ slot : Slot,
      ((outputPorts s).obsRotorId.extractLsb' (4 * slot.val) 4).toNat = s.rotorId[slot].code ∧
      ((outputPorts s).obsRotation.extractLsb' (5 * slot.val) 5).toNat = s.rotation[slot].val ∧
      ((outputPorts s).obsRing.extractLsb' (5 * slot.val) 5).toNat = s.ring[slot].val) ∧
    (∀ i : Letter, ((outputPorts s).obsPlug.extractLsb' (5 * i.val) 5).toNat = s.plug[i].val)

/-- R71: the pseudo-instructions of the mnemonic form expand to commands. -/
def Obligations.PseudoInstructionsExpand : Prop :=
  (∀ slot rotor rot ring,
    assembleLine (.rotor slot rotor rot ring) = do
      let load ← assembleLine (.ldrot slot rotor)
      let turn ← assembleLine (.setrot slot rot)
      let shift ← assembleLine (.setring slot ring)
      return load ++ turn ++ shift) ∧
  (∀ ch, assembleLine (.unplug ch) = assembleLine (.wire ch ch)) ∧
  (∀ text : List Byte, assembleLine (.encs text) = some (text.map fun ch => .enc ch))

/-- The settings lines expand to commands in file order (R72 of 30_encoding.md), and lines with codes outside the
enumerations or that cannot be parsed expand to nothing (R74). An ignored load still lets the offsets through. -/
def Obligations.SettingsLinesExpand : Prop :=
  (∀ m : Mode, expandLine (.mode m.code) = [.setmode m]) ∧
  (∀ refl : ReflectorId, expandLine (.reflector refl.code) = [.ldref refl]) ∧
  (∀ (slot : Slot) (rotor : RotorId) (rot ring : Int),
    expandLine (.rotor slot.val rotor.code rot ring) =
      [ldrotOf slot rotor, .setrot slot (offsetOperand rot), .setring slot (offsetOperand ring)]) ∧
  (∀ ch1 ch2 : Byte, expandLine (.plug ch1 ch2) = [.wire ch1 ch2]) ∧
  (expandLine .comment = [] ∧ expandLine .malformed = []) ∧
  (∀ n : Nat, 2 ≤ n → expandLine (.mode n) = []) ∧ (∀ n : Nat, 4 ≤ n → expandLine (.reflector n) = []) ∧
  (∀ (n code : Nat) (rot ring : Int), 4 ≤ n ∨ 10 ≤ code → expandLine (.rotor n code rot ring) = []) ∧
  (∀ lines lines', expandSettings (lines ++ lines') = expandSettings lines ++ expandSettings lines') ∧
  (∀ (s : State) (slot : Slot) (rotor : RotorId) (rot ring : Letter), rotorFitsSlot slot rotor = false → ∃ t rs,
    runWords ((expandLine (.rotor slot.val rotor.code (rot.val : Int) (ring.val : Int))).map encode) s = .next (t, rs) ∧
    t.rotorId = s.rotorId ∧ t.rotation = s.rotation.set slot.val rot ∧ t.ring = s.ring.set slot.val ring)

/-- The settings round trip (the source's property S7 of 95_test_vectors.md, under the preconditions of 90_conflicts.md
C6): what the writer emits for any valid machine, reloaded into any engine whose plugboard is the identity, restores
the mode, the reflector, the plugboard and every active slot, leaves the inactive slot as the target had it, and
every later text is answered alike. -/
def Obligations.SettingsReloadRestoresTheMachine : Prop :=
  ∀ s target : State, Inv s → (∀ i : Letter, target.plug[i] = i) → ∃ t rs,
    runWords ((expandSettings (writeSettings s)).map encode) target = .next (t, rs) ∧ CleanRun rs ∧
    t.mode = s.mode ∧ t.reflectorId = s.reflectorId ∧ t.plug = s.plug ∧
    (∀ slot : Slot, slot ∈ activeSlots s.mode →
      t.rotorId[slot] = s.rotorId[slot] ∧ t.rotation[slot] = s.rotation[slot] ∧ t.ring[slot] = s.ring[slot]) ∧
    (∀ slot : Slot, slot ∉ activeSlots s.mode →
      t.rotorId[slot] = target.rotorId[slot] ∧ t.rotation[slot] = target.rotation[slot] ∧
      t.ring[slot] = target.ring[slot]) ∧
    (∀ text : List Byte, ∃ u v answers,
      runWords (encWords text) t = .next (u, answers) ∧ runWords (encWords text) s = .next (v, answers))

/-- The clocked machine runs a list of words as the fold of `exec` over the list (R8, R26, R170): presented one per
edge to an engine that has been reset, they lead `core` to the final state of `runWords`. -/
def Obligations.PresentedWordsRunAsTheFoldOfExec : Prop :=
  ∀ (ws : List Word) (s : State) (rest : List PortInput), s.hasBeenReset = true →
    s.inputs = ws.map (PortInput.driven false true) ++ rest →
    ∃ t rs, runWords ws s = .next (t, rs) ∧ rs.length = ws.length ∧
      (Host.Core.run Sys2Proof.core ws.length s : Host.Outcome State Fault Refusal) = .next { t with inputs := rest }
end

