-- ==== Sys2Proof/Laws/Decode.lean ====
section
/-!
SUPPORT. The fields of a word put together from fields, and the operand codes read back (30_encoding.md R60, R63).
-/

namespace Sys2Proof

@[simp] theorem fieldOp_wordOf (op a : Byte) (b : BitVec 16) : fieldOp (wordOf op a b) = op := by
  ext i hi
  simp only [fieldOp, wordOf, BitVec.getElem_extractLsb', BitVec.getLsbD_append]
  rw [if_neg (by omega), if_neg (by omega), show 24 + i - 16 - 8 = i by omega, BitVec.getLsbD_eq_getElem hi]

@[simp] theorem fieldA_wordOf (op a : Byte) (b : BitVec 16) : fieldA (wordOf op a b) = a := by
  ext i hi
  simp only [fieldA, wordOf, BitVec.getElem_extractLsb', BitVec.getLsbD_append]
  rw [if_neg (by omega), if_pos (by omega), show 16 + i - 16 = i by omega, BitVec.getLsbD_eq_getElem hi]

@[simp] theorem fieldB_wordOf (op a : Byte) (b : BitVec 16) : fieldB (wordOf op a b) = b := by
  ext i hi
  simp only [fieldB, wordOf, BitVec.getElem_extractLsb', BitVec.getLsbD_append]
  rw [if_pos (by omega), Nat.zero_add, BitVec.getLsbD_eq_getElem hi]

/-- A word is its three fields. -/
theorem wordOf_fields (w : Word) : wordOf (fieldOp w) (fieldA w) (fieldB w) = w := by
  apply BitVec.eq_of_getLsbD_eq
  intro i hi
  simp only [fieldOp, fieldA, fieldB, wordOf, BitVec.getLsbD_append, BitVec.getLsbD_extractLsb']
  split
  · simp [*]
  · split
    · simp only [show i - 16 < 8 by omega, decide_true, Bool.true_and]; congr 1; omega
    · simp only [show i - 16 - 8 < 8 by omega, decide_true, Bool.true_and]; congr 1; omega

theorem highByte_charField (ch : Byte) : highByte (charField ch) = 0#8 := by
  ext i hi
  simp only [highByte, charField, BitVec.getElem_extractLsb', BitVec.getLsbD_append]
  have h1 : ¬ (8 + i < 8) := by omega
  simp [h1]

theorem lowByte_charField (ch : Byte) : lowByte (charField ch) = ch := by
  ext i hi
  simp only [lowByte, charField, BitVec.getElem_extractLsb', BitVec.getLsbD_append]
  rw [if_pos (by omega), Nat.zero_add, BitVec.getLsbD_eq_getElem hi]

theorem aboveSlot_slotField (slot : Slot) : aboveSlot (slotField slot) = 0#6 := by
  revert slot; decide

@[simp] theorem slotOf_slotField (slot : Slot) : slotOf (slotField slot) = slot := by
  revert slot; decide

@[simp] theorem RotorId.ofCode_code (rotor : RotorId) : RotorId.ofCode rotor.code = some rotor := by
  cases rotor <;> rfl

/-- The codes from 10 on name no rotor. -/
theorem RotorId.code_of_ofCode {n : Nat} {rotor : RotorId} (h : RotorId.ofCode n = some rotor) : rotor.code = n := by
  unfold RotorId.ofCode at h
  split at h <;> first | (cases h; rfl) | cases h

@[simp] theorem Mode.ofBit_code (m : Mode) : Mode.ofBit (m.code == 1) = m := by
  cases m <;> rfl

/-- The two LDROT constructors split the rotors. -/
theorem ldrotOf_wellFormed (slot : Slot) (rotor : RotorId) : (ldrotOf slot rotor).wellFormed = true := by
  cases rotor <;> rfl

theorem encode_ldrotOf (slot : Slot) (rotor : RotorId) :
    encode (ldrotOf slot rotor) = wordOf 0x03 (slotField slot) (BitVec.ofNat 16 rotor.code) := by
  cases rotor <;> rfl

/-- The bitwise and of two concatenations, part by part. -/
theorem append_and_append {m n : Nat} (a c : BitVec m) (b d : BitVec n) :
    (a ++ b) &&& (c ++ d) = (a &&& c) ++ (b &&& d) := by
  apply BitVec.eq_of_getLsbD_eq
  intro i _
  simp only [BitVec.getLsbD_and, BitVec.getLsbD_append]
  split <;> rfl

/-- A word as a number. -/
theorem toNat_wordOf (op a : Byte) (b : BitVec 16) :
    (wordOf op a b).toNat = op.toNat * 2 ^ 24 + a.toNat * 2 ^ 16 + b.toNat := by
  unfold wordOf
  rw [BitVec.toNat_append, BitVec.toNat_append, ← Nat.shiftLeft_add_eq_or_of_lt a.isLt,
    ← Nat.shiftLeft_add_eq_or_of_lt b.isLt]
  simp only [Nat.shiftLeft_eq]
  omega

@[simp] theorem toNat_charField (ch : Byte) : (charField ch).toNat = ch.toNat := by
  unfold charField; rw [BitVec.toNat_append]; simp

@[simp] theorem toNat_slotField (slot : Slot) : (slotField slot).toNat = slot.val := by
  revert slot; decide

/-- A bit string is its high part before its low part. -/
theorem append_extractLsb' {m n : Nat} (b : BitVec (m + n)) : b.extractLsb' n m ++ b.extractLsb' 0 n = b := by
  apply BitVec.eq_of_getLsbD_eq
  intro i hi
  simp only [BitVec.getLsbD_append, BitVec.getLsbD_extractLsb']
  split
  · simp [*]
  · simp only [show i - n < m by omega, decide_true, Bool.true_and]; congr 1; omega

/-- The `b` of formats C and CC is the field of its low byte. -/
theorem charField_lowByte {b : BitVec 16} (h : highByte b = 0#8) : charField (lowByte b) = b := by
  have e := append_extractLsb' (m := 8) (n := 8) b
  unfold highByte at h
  rwa [h] at e

/-- The `a` of formats SK and SV is the field of its slot. -/
theorem slotField_slotOf {a : Byte} (h : aboveSlot a = 0#6) : slotField (slotOf a) = a := by
  revert a; decide

end Sys2Proof
end

