-- ==== Sys2Proof/Laws/Letter.lean ====
section
/-!
SUPPORT. Letter arithmetic is the arithmetic of `Fin 26`, the floored modulus is the residue, and characters and
letter indices correspond (40_wheel_math.md R85, R86).
-/

namespace Sys2Proof.Machine

theorem addLetter_eq (x y : Letter) : addLetter x y = x + y := by
  ext; simp [addLetter, Fin.val_add]

theorem subLetter_eq (x y : Letter) : subLetter x y = x - y := by
  ext; simp only [subLetter, Fin.sub_def]; congr 1; omega

theorem nextLetter_eq (r : Letter) : nextLetter r = r + 1 := addLetter_eq r 1

theorem nextLetter_ne (r : Letter) : nextLetter r ≠ r := by
  revert r; decide

/-- `fmod26 v` is the residue of `v`, as an integer. -/
theorem fmod26_val (v : Int) : ((fmod26 v).val : Int) = v % 26 := by
  have h := Int.mul_fdiv_add_fmod v 26
  have h0 := Int.fmod_nonneg_of_pos v (b := 26) (by decide)
  have e : v.fmod 26 = v % 26 := Int.fmod_eq_emod_of_nonneg v (by decide)
  simp only [fmod26]
  omega

/-- The floored modulus depends on the residue only. -/
theorem fmod26_congr {v v' : Int} (h : v % 26 = v' % 26) : fmod26 v = fmod26 v' := by
  apply Fin.ext
  have h1 := fmod26_val v
  have h2 := fmod26_val v'
  omega

/-- A letter index is its own floored modulus. -/
theorem fmod26_letter (i : Letter) : fmod26 (i.val : Int) = i := by
  apply Fin.ext
  have h := fmod26_val (i.val : Int)
  have := i.isLt
  omega

theorem isUpper_iff (ch : Byte) : isUpper ch = true ↔ 0x41 ≤ ch.toNat ∧ ch.toNat ≤ 0x5A := by
  simp [isUpper]

theorem isLower_iff (ch : Byte) : isLower ch = true ↔ 0x61 ≤ ch.toNat ∧ ch.toNat ≤ 0x7A := by
  simp [isLower]

/-- `idx` is defined exactly on letters. -/
theorem letterIndex_isSome (ch : Byte) : (letterIndex ch).isSome = isLetter ch := by
  unfold letterIndex isLetter
  by_cases hu : isUpper ch = true
  · simp [hu]
  · by_cases hl : isLower ch = true
    · simp [hu, hl]
    · simp [hu, hl]

theorem letterIndex_eq_none (ch : Byte) : letterIndex ch = none ↔ isLetter ch = false := by
  rw [← letterIndex_isSome]; cases letterIndex ch <;> simp

theorem isLetter_of_letterIndex {ch : Byte} {i : Letter} (h : letterIndex ch = some i) : isLetter ch = true := by
  rw [← letterIndex_isSome, h]; rfl

theorem letterIndex_of_isLetter {ch : Byte} (h : isLetter ch = true) : ∃ i, letterIndex ch = some i := by
  rw [← letterIndex_isSome] at h; exact Option.isSome_iff_exists.mp h

/-- `idx(chr(i)) = i`. -/
@[simp] theorem letterIndex_letterChar (i : Letter) : letterIndex (letterChar i) = some i := by
  revert i; decide

/-- `chr(i)` is an upper-case letter. -/
theorem letterChar_range (i : Letter) : 0x41 ≤ (letterChar i).toNat ∧ (letterChar i).toNat ≤ 0x5A := by
  revert i; decide

theorem letterChar_injective {i j : Letter} (h : letterChar i = letterChar j) : i = j := by
  have := congrArg letterIndex h
  simpa using this

end Sys2Proof.Machine
end

