-- ==== Sys2Proof/Laws/State.lean ====
section
/-!
SUPPORT. One lemma per field per named update of State, true by `rfl` and in the simp set, so that no later proof
unfolds a record update.
-/

namespace Sys2Proof.Machine

/-! ## `setRotorId` -/

@[simp] theorem setRotorId_mode (slot : Slot) (rotor : RotorId) (s : State) : (setRotorId slot rotor s).mode = s.mode := rfl
@[simp] theorem setRotorId_rotorId (slot : Slot) (rotor : RotorId) (s : State) : (setRotorId slot rotor s).rotorId = s.rotorId.set slot.val rotor slot.isLt := rfl
@[simp] theorem setRotorId_rotation (slot : Slot) (rotor : RotorId) (s : State) : (setRotorId slot rotor s).rotation = s.rotation := rfl
@[simp] theorem setRotorId_ring (slot : Slot) (rotor : RotorId) (s : State) : (setRotorId slot rotor s).ring = s.ring := rfl
@[simp] theorem setRotorId_reflectorId (slot : Slot) (rotor : RotorId) (s : State) : (setRotorId slot rotor s).reflectorId = s.reflectorId := rfl
@[simp] theorem setRotorId_plug (slot : Slot) (rotor : RotorId) (s : State) : (setRotorId slot rotor s).plug = s.plug := rfl
@[simp] theorem setRotorId_respValid (slot : Slot) (rotor : RotorId) (s : State) : (setRotorId slot rotor s).respValid = s.respValid := rfl
@[simp] theorem setRotorId_respChar (slot : Slot) (rotor : RotorId) (s : State) : (setRotorId slot rotor s).respChar = s.respChar := rfl
@[simp] theorem setRotorId_respIllegal (slot : Slot) (rotor : RotorId) (s : State) : (setRotorId slot rotor s).respIllegal = s.respIllegal := rfl
@[simp] theorem setRotorId_hasBeenReset (slot : Slot) (rotor : RotorId) (s : State) : (setRotorId slot rotor s).hasBeenReset = s.hasBeenReset := rfl
@[simp] theorem setRotorId_inputs (slot : Slot) (rotor : RotorId) (s : State) : (setRotorId slot rotor s).inputs = s.inputs := rfl

/-! ## `setRotation` -/

@[simp] theorem setRotation_mode (slot : Slot) (r : Letter) (s : State) : (setRotation slot r s).mode = s.mode := rfl
@[simp] theorem setRotation_rotorId (slot : Slot) (r : Letter) (s : State) : (setRotation slot r s).rotorId = s.rotorId := rfl
@[simp] theorem setRotation_rotation (slot : Slot) (r : Letter) (s : State) : (setRotation slot r s).rotation = s.rotation.set slot.val r slot.isLt := rfl
@[simp] theorem setRotation_ring (slot : Slot) (r : Letter) (s : State) : (setRotation slot r s).ring = s.ring := rfl
@[simp] theorem setRotation_reflectorId (slot : Slot) (r : Letter) (s : State) : (setRotation slot r s).reflectorId = s.reflectorId := rfl
@[simp] theorem setRotation_plug (slot : Slot) (r : Letter) (s : State) : (setRotation slot r s).plug = s.plug := rfl
@[simp] theorem setRotation_respValid (slot : Slot) (r : Letter) (s : State) : (setRotation slot r s).respValid = s.respValid := rfl
@[simp] theorem setRotation_respChar (slot : Slot) (r : Letter) (s : State) : (setRotation slot r s).respChar = s.respChar := rfl
@[simp] theorem setRotation_respIllegal (slot : Slot) (r : Letter) (s : State) : (setRotation slot r s).respIllegal = s.respIllegal := rfl
@[simp] theorem setRotation_hasBeenReset (slot : Slot) (r : Letter) (s : State) : (setRotation slot r s).hasBeenReset = s.hasBeenReset := rfl
@[simp] theorem setRotation_inputs (slot : Slot) (r : Letter) (s : State) : (setRotation slot r s).inputs = s.inputs := rfl

/-! ## `setRing` -/

@[simp] theorem setRing_mode (slot : Slot) (r : Letter) (s : State) : (setRing slot r s).mode = s.mode := rfl
@[simp] theorem setRing_rotorId (slot : Slot) (r : Letter) (s : State) : (setRing slot r s).rotorId = s.rotorId := rfl
@[simp] theorem setRing_rotation (slot : Slot) (r : Letter) (s : State) : (setRing slot r s).rotation = s.rotation := rfl
@[simp] theorem setRing_ring (slot : Slot) (r : Letter) (s : State) : (setRing slot r s).ring = s.ring.set slot.val r slot.isLt := rfl
@[simp] theorem setRing_reflectorId (slot : Slot) (r : Letter) (s : State) : (setRing slot r s).reflectorId = s.reflectorId := rfl
@[simp] theorem setRing_plug (slot : Slot) (r : Letter) (s : State) : (setRing slot r s).plug = s.plug := rfl
@[simp] theorem setRing_respValid (slot : Slot) (r : Letter) (s : State) : (setRing slot r s).respValid = s.respValid := rfl
@[simp] theorem setRing_respChar (slot : Slot) (r : Letter) (s : State) : (setRing slot r s).respChar = s.respChar := rfl
@[simp] theorem setRing_respIllegal (slot : Slot) (r : Letter) (s : State) : (setRing slot r s).respIllegal = s.respIllegal := rfl
@[simp] theorem setRing_hasBeenReset (slot : Slot) (r : Letter) (s : State) : (setRing slot r s).hasBeenReset = s.hasBeenReset := rfl
@[simp] theorem setRing_inputs (slot : Slot) (r : Letter) (s : State) : (setRing slot r s).inputs = s.inputs := rfl

/-! ## `setReflector` -/

@[simp] theorem setReflector_mode (refl : ReflectorId) (s : State) : (setReflector refl s).mode = s.mode := rfl
@[simp] theorem setReflector_rotorId (refl : ReflectorId) (s : State) : (setReflector refl s).rotorId = s.rotorId := rfl
@[simp] theorem setReflector_rotation (refl : ReflectorId) (s : State) : (setReflector refl s).rotation = s.rotation := rfl
@[simp] theorem setReflector_ring (refl : ReflectorId) (s : State) : (setReflector refl s).ring = s.ring := rfl
@[simp] theorem setReflector_reflectorId (refl : ReflectorId) (s : State) : (setReflector refl s).reflectorId = refl := rfl
@[simp] theorem setReflector_plug (refl : ReflectorId) (s : State) : (setReflector refl s).plug = s.plug := rfl
@[simp] theorem setReflector_respValid (refl : ReflectorId) (s : State) : (setReflector refl s).respValid = s.respValid := rfl
@[simp] theorem setReflector_respChar (refl : ReflectorId) (s : State) : (setReflector refl s).respChar = s.respChar := rfl
@[simp] theorem setReflector_respIllegal (refl : ReflectorId) (s : State) : (setReflector refl s).respIllegal = s.respIllegal := rfl
@[simp] theorem setReflector_hasBeenReset (refl : ReflectorId) (s : State) : (setReflector refl s).hasBeenReset = s.hasBeenReset := rfl
@[simp] theorem setReflector_inputs (refl : ReflectorId) (s : State) : (setReflector refl s).inputs = s.inputs := rfl

/-! ## `setMode` -/

@[simp] theorem setMode_mode (m : Mode) (s : State) : (setMode m s).mode = m := rfl
@[simp] theorem setMode_rotorId (m : Mode) (s : State) : (setMode m s).rotorId = s.rotorId := rfl
@[simp] theorem setMode_rotation (m : Mode) (s : State) : (setMode m s).rotation = s.rotation := rfl
@[simp] theorem setMode_ring (m : Mode) (s : State) : (setMode m s).ring = s.ring := rfl
@[simp] theorem setMode_reflectorId (m : Mode) (s : State) : (setMode m s).reflectorId = s.reflectorId := rfl
@[simp] theorem setMode_plug (m : Mode) (s : State) : (setMode m s).plug = s.plug := rfl
@[simp] theorem setMode_respValid (m : Mode) (s : State) : (setMode m s).respValid = s.respValid := rfl
@[simp] theorem setMode_respChar (m : Mode) (s : State) : (setMode m s).respChar = s.respChar := rfl
@[simp] theorem setMode_respIllegal (m : Mode) (s : State) : (setMode m s).respIllegal = s.respIllegal := rfl
@[simp] theorem setMode_hasBeenReset (m : Mode) (s : State) : (setMode m s).hasBeenReset = s.hasBeenReset := rfl
@[simp] theorem setMode_inputs (m : Mode) (s : State) : (setMode m s).inputs = s.inputs := rfl

/-! ## `setPlug` -/

@[simp] theorem setPlug_mode (p : Vector Letter 26) (s : State) : (setPlug p s).mode = s.mode := rfl
@[simp] theorem setPlug_rotorId (p : Vector Letter 26) (s : State) : (setPlug p s).rotorId = s.rotorId := rfl
@[simp] theorem setPlug_rotation (p : Vector Letter 26) (s : State) : (setPlug p s).rotation = s.rotation := rfl
@[simp] theorem setPlug_ring (p : Vector Letter 26) (s : State) : (setPlug p s).ring = s.ring := rfl
@[simp] theorem setPlug_reflectorId (p : Vector Letter 26) (s : State) : (setPlug p s).reflectorId = s.reflectorId := rfl
@[simp] theorem setPlug_plug (p : Vector Letter 26) (s : State) : (setPlug p s).plug = p := rfl
@[simp] theorem setPlug_respValid (p : Vector Letter 26) (s : State) : (setPlug p s).respValid = s.respValid := rfl
@[simp] theorem setPlug_respChar (p : Vector Letter 26) (s : State) : (setPlug p s).respChar = s.respChar := rfl
@[simp] theorem setPlug_respIllegal (p : Vector Letter 26) (s : State) : (setPlug p s).respIllegal = s.respIllegal := rfl
@[simp] theorem setPlug_hasBeenReset (p : Vector Letter 26) (s : State) : (setPlug p s).hasBeenReset = s.hasBeenReset := rfl
@[simp] theorem setPlug_inputs (p : Vector Letter 26) (s : State) : (setPlug p s).inputs = s.inputs := rfl

/-! ## `loadResetValues` -/

@[simp] theorem loadResetValues_mode (s : State) : (loadResetValues s).mode = State.reset.mode := rfl
@[simp] theorem loadResetValues_rotorId (s : State) : (loadResetValues s).rotorId = State.reset.rotorId := rfl
@[simp] theorem loadResetValues_rotation (s : State) : (loadResetValues s).rotation = State.reset.rotation := rfl
@[simp] theorem loadResetValues_ring (s : State) : (loadResetValues s).ring = State.reset.ring := rfl
@[simp] theorem loadResetValues_reflectorId (s : State) : (loadResetValues s).reflectorId = State.reset.reflectorId := rfl
@[simp] theorem loadResetValues_plug (s : State) : (loadResetValues s).plug = State.reset.plug := rfl
@[simp] theorem loadResetValues_respValid (s : State) : (loadResetValues s).respValid = s.respValid := rfl
@[simp] theorem loadResetValues_respChar (s : State) : (loadResetValues s).respChar = s.respChar := rfl
@[simp] theorem loadResetValues_respIllegal (s : State) : (loadResetValues s).respIllegal = s.respIllegal := rfl
@[simp] theorem loadResetValues_hasBeenReset (s : State) : (loadResetValues s).hasBeenReset = s.hasBeenReset := rfl
@[simp] theorem loadResetValues_inputs (s : State) : (loadResetValues s).inputs = s.inputs := rfl

/-! ## `respond` -/

@[simp] theorem respond_mode (c : Byte) (ill : Bool) (s : State) : (respond c ill s).mode = s.mode := rfl
@[simp] theorem respond_rotorId (c : Byte) (ill : Bool) (s : State) : (respond c ill s).rotorId = s.rotorId := rfl
@[simp] theorem respond_rotation (c : Byte) (ill : Bool) (s : State) : (respond c ill s).rotation = s.rotation := rfl
@[simp] theorem respond_ring (c : Byte) (ill : Bool) (s : State) : (respond c ill s).ring = s.ring := rfl
@[simp] theorem respond_reflectorId (c : Byte) (ill : Bool) (s : State) : (respond c ill s).reflectorId = s.reflectorId := rfl
@[simp] theorem respond_plug (c : Byte) (ill : Bool) (s : State) : (respond c ill s).plug = s.plug := rfl
@[simp] theorem respond_respValid (c : Byte) (ill : Bool) (s : State) : (respond c ill s).respValid = true := rfl
@[simp] theorem respond_respChar (c : Byte) (ill : Bool) (s : State) : (respond c ill s).respChar = c := rfl
@[simp] theorem respond_respIllegal (c : Byte) (ill : Bool) (s : State) : (respond c ill s).respIllegal = ill := rfl
@[simp] theorem respond_hasBeenReset (c : Byte) (ill : Bool) (s : State) : (respond c ill s).hasBeenReset = s.hasBeenReset := rfl
@[simp] theorem respond_inputs (c : Byte) (ill : Bool) (s : State) : (respond c ill s).inputs = s.inputs := rfl

/-! ## `clearResponse` -/

@[simp] theorem clearResponse_mode (s : State) : (clearResponse s).mode = s.mode := rfl
@[simp] theorem clearResponse_rotorId (s : State) : (clearResponse s).rotorId = s.rotorId := rfl
@[simp] theorem clearResponse_rotation (s : State) : (clearResponse s).rotation = s.rotation := rfl
@[simp] theorem clearResponse_ring (s : State) : (clearResponse s).ring = s.ring := rfl
@[simp] theorem clearResponse_reflectorId (s : State) : (clearResponse s).reflectorId = s.reflectorId := rfl
@[simp] theorem clearResponse_plug (s : State) : (clearResponse s).plug = s.plug := rfl
@[simp] theorem clearResponse_respValid (s : State) : (clearResponse s).respValid = false := rfl
@[simp] theorem clearResponse_respChar (s : State) : (clearResponse s).respChar = 0x00 := rfl
@[simp] theorem clearResponse_respIllegal (s : State) : (clearResponse s).respIllegal = false := rfl
@[simp] theorem clearResponse_hasBeenReset (s : State) : (clearResponse s).hasBeenReset = s.hasBeenReset := rfl
@[simp] theorem clearResponse_inputs (s : State) : (clearResponse s).inputs = s.inputs := rfl

/-! ## `pinReset` -/

@[simp] theorem pinReset_mode (s : State) : (pinReset s).mode = State.reset.mode := rfl
@[simp] theorem pinReset_rotorId (s : State) : (pinReset s).rotorId = State.reset.rotorId := rfl
@[simp] theorem pinReset_rotation (s : State) : (pinReset s).rotation = State.reset.rotation := rfl
@[simp] theorem pinReset_ring (s : State) : (pinReset s).ring = State.reset.ring := rfl
@[simp] theorem pinReset_reflectorId (s : State) : (pinReset s).reflectorId = State.reset.reflectorId := rfl
@[simp] theorem pinReset_plug (s : State) : (pinReset s).plug = State.reset.plug := rfl
@[simp] theorem pinReset_respValid (s : State) : (pinReset s).respValid = false := rfl
@[simp] theorem pinReset_respChar (s : State) : (pinReset s).respChar = 0x00 := rfl
@[simp] theorem pinReset_respIllegal (s : State) : (pinReset s).respIllegal = false := rfl
@[simp] theorem pinReset_hasBeenReset (s : State) : (pinReset s).hasBeenReset = true := rfl
@[simp] theorem pinReset_inputs (s : State) : (pinReset s).inputs = s.inputs := rfl

/-! ## `presentWord` -/

@[simp] theorem presentWord_mode (w : Word) (s : State) : (presentWord w s).mode = s.mode := rfl
@[simp] theorem presentWord_rotorId (w : Word) (s : State) : (presentWord w s).rotorId = s.rotorId := rfl
@[simp] theorem presentWord_rotation (w : Word) (s : State) : (presentWord w s).rotation = s.rotation := rfl
@[simp] theorem presentWord_ring (w : Word) (s : State) : (presentWord w s).ring = s.ring := rfl
@[simp] theorem presentWord_reflectorId (w : Word) (s : State) : (presentWord w s).reflectorId = s.reflectorId := rfl
@[simp] theorem presentWord_plug (w : Word) (s : State) : (presentWord w s).plug = s.plug := rfl
@[simp] theorem presentWord_respValid (w : Word) (s : State) : (presentWord w s).respValid = s.respValid := rfl
@[simp] theorem presentWord_respChar (w : Word) (s : State) : (presentWord w s).respChar = s.respChar := rfl
@[simp] theorem presentWord_respIllegal (w : Word) (s : State) : (presentWord w s).respIllegal = s.respIllegal := rfl
@[simp] theorem presentWord_hasBeenReset (w : Word) (s : State) : (presentWord w s).hasBeenReset = s.hasBeenReset := rfl
@[simp] theorem presentWord_inputs (w : Word) (s : State) : (presentWord w s).inputs = .driven false true w :: s.inputs := rfl

end Sys2Proof.Machine
end

