-- ==== Sys2Proof/Laws/Tables.lean ====
section
/-!
SUPPORT. The engine's tables meet the conditions of 20_memory.md R41, and their reflectors move every letter.
-/

namespace Sys2Proof.Machine

theorem engineConfig_inv_fwd (id : RotorId) : ∀ i : Letter, (rotorInvTable id)[(rotorFwdTable id)[i]] = i := by
  cases id <;> decide

theorem engineConfig_fwd_inv (id : RotorId) : ∀ i : Letter, (rotorFwdTable id)[(rotorInvTable id)[i]] = i := by
  cases id <;> decide

theorem engineConfig_refl_refl (id : ReflectorId) : ∀ i : Letter, (reflTable id)[(reflTable id)[i]] = i := by
  cases id <;> decide

@[simp] theorem engineConfig_notch (id : RotorId) : engineConfig.notch id = notchTable id := rfl

@[simp] theorem engineConfig_advance : engineConfig.bothNotchAdvance = .two := rfl

/-- R41 T1 to T4 hold of the engine's configuration. -/
theorem engineConfig_wf : engineConfig.WF where
  inv_fwd := engineConfig_inv_fwd
  fwd_inv := engineConfig_fwd_inv
  refl_refl := engineConfig_refl_refl
  notch_size id := by cases id <;> decide
  notch_nodup id := by cases id <;> decide
  notch_beta := rfl
  notch_gamma := rfl

/-- R41 T1: under `Config.WF` every rotor table is injective. -/
theorem Config.WF.rotorFwd_injective {cfg : Config} (h : cfg.WF) (id : RotorId) {i j : Letter}
    (e : cfg.rotorFwd id i = cfg.rotorFwd id j) : i = j := by
  rw [← h.inv_fwd id i, e, h.inv_fwd id j]

/-- No reflector of the engine has a fixed point (20_memory.md R44). -/
theorem reflTable_moves (id : ReflectorId) : ∀ i : Letter, (reflTable id)[i] ≠ i := by
  cases id <;> decide

end Sys2Proof.Machine
end

