-- ==== Sys2Proof/Laws/Machine.lean ====
section
/-!
SUPPORT. One lemma per shared operation that says once what it does: the wheel arithmetic, the stepper, the
plugboard edit, the response, the clock edge.
-/

namespace Sys2Proof.Machine

/-! ## Wheel arithmetic -/

/-- R80 and R81 in the arithmetic of `Fin 26`. -/
theorem rotorRingSettingLogic_eq (cfg : Config) (dir : Direction) (id : RotorId) (rot ring i : Letter) :
    rotorRingSettingLogic cfg dir id rot ring i = rotorRead cfg dir id (i - ring + rot) - rot + ring := by
  simp [rotorRingSettingLogic, addLetter_eq, subLetter_eq]

/-- One read of a ROM and one read of its inverse at the same row cancel. -/
theorem rotorRead_inverse_forward {cfg : Config} (h : cfg.WF) (id : RotorId) (p : Letter) :
    rotorRead cfg .inverse id (rotorRead cfg .forward id p) = p := h.inv_fwd id p

theorem rotorRead_forward_inverse {cfg : Config} (h : cfg.WF) (id : RotorId) (p : Letter) :
    rotorRead cfg .forward id (rotorRead cfg .inverse id p) = p := h.fwd_inv id p

/-- The active slots one by one. -/
theorem throughRotors_cons (cfg : Config) (dir : Direction) (rotorId : Vector RotorId 4) (rotation ring : Vector Letter 4)
    (slot : Slot) (slots : List Slot) (i : Letter) :
    throughRotors cfg dir rotorId rotation ring (slot :: slots) i =
      throughRotors cfg dir rotorId rotation ring slots
        (rotorRingSettingLogic cfg dir rotorId[slot] rotation[slot] ring[slot] i) := rfl

theorem throughRotors_append (cfg : Config) (dir : Direction) (rotorId : Vector RotorId 4) (rotation ring : Vector Letter 4)
    (front back : List Slot) (i : Letter) :
    throughRotors cfg dir rotorId rotation ring (front ++ back) i =
      throughRotors cfg dir rotorId rotation ring back (throughRotors cfg dir rotorId rotation ring front i) := by
  simp [throughRotors, List.foldl_append]

/-! ## The stepper -/

/-- Under the engine's configuration the three steps are independent increments. -/
theorem enigmaRackStepper_engine (id0 id1 : RotorId) (r0 r1 r2 : Letter) :
    enigmaRackStepper engineConfig id0 id1 r0 r1 r2 =
      (nextLetter r0,
        if onNotch engineConfig id0 r0 then
          nextLetter (if onNotch engineConfig id1 r1 then nextLetter r1 else r1)
        else if onNotch engineConfig id1 r1 then nextLetter r1 else r1,
        if onNotch engineConfig id1 r1 then nextLetter r2 else r2) := by
  simp only [enigmaRackStepper, engineConfig_advance]
  cases onNotch engineConfig id1 r1 <;> cases onNotch engineConfig id0 r0 <;> rfl

/-- A keystroke writes the rotations and nothing else. -/
theorem stepRack_eq (cfg : Config) (s : State) : stepRack cfg s = { s with rotation := (stepRack cfg s).rotation } := rfl

@[simp] theorem stepRack_mode (cfg : Config) (s : State) : (stepRack cfg s).mode = s.mode := rfl
@[simp] theorem stepRack_rotorId (cfg : Config) (s : State) : (stepRack cfg s).rotorId = s.rotorId := rfl
@[simp] theorem stepRack_ring (cfg : Config) (s : State) : (stepRack cfg s).ring = s.ring := rfl
@[simp] theorem stepRack_reflectorId (cfg : Config) (s : State) : (stepRack cfg s).reflectorId = s.reflectorId := rfl
@[simp] theorem stepRack_plug (cfg : Config) (s : State) : (stepRack cfg s).plug = s.plug := rfl
@[simp] theorem stepRack_hasBeenReset (cfg : Config) (s : State) : (stepRack cfg s).hasBeenReset = s.hasBeenReset := rfl
@[simp] theorem stepRack_inputs (cfg : Config) (s : State) : (stepRack cfg s).inputs = s.inputs := rfl

/-- The rotations after a keystroke, slot by slot. -/
theorem stepRack_rotation (cfg : Config) (s : State) :
    (stepRack cfg s).rotation =
      ((s.rotation.set 2 (enigmaRackStepper cfg s.rotorId[0] s.rotorId[1] s.rotation[0] s.rotation[1] s.rotation[2]).2.2).set 1
        (enigmaRackStepper cfg s.rotorId[0] s.rotorId[1] s.rotation[0] s.rotation[1] s.rotation[2]).2.1).set 0
        (enigmaRackStepper cfg s.rotorId[0] s.rotorId[1] s.rotation[0] s.rotation[1] s.rotation[2]).1 := rfl

/-- The rotations after a keystroke of the engine, in the arithmetic of `Fin 26`. -/
theorem stepRack_engine_rotation (s : State) :
    (stepRack engineConfig s).rotation =
      #v[s.rotation[0] + 1,
        s.rotation[1] + (if s.rotation[1] ∈ engineConfig.notch s.rotorId[1] then (1 : Letter) else 0) +
          (if s.rotation[0] ∈ engineConfig.notch s.rotorId[0] then (1 : Letter) else 0),
        s.rotation[2] + (if s.rotation[1] ∈ engineConfig.notch s.rotorId[1] then (1 : Letter) else 0),
        s.rotation[3]] := by
  rw [stepRack_rotation, enigmaRackStepper_engine]
  simp only [onNotch, nextLetter_eq, List.contains_iff_mem]
  ext i hi
  match i, hi with
  | 0, _ => simp
  | 1, _ =>
    by_cases h1 : s.rotation[1] ∈ engineConfig.notch s.rotorId[1] <;>
      by_cases h0 : s.rotation[0] ∈ engineConfig.notch s.rotorId[0] <;> simp_all
  | 2, _ => by_cases h1 : s.rotation[1] ∈ engineConfig.notch s.rotorId[1] <;> simp_all
  | 3, _ => simp

/-! ## The plugboard -/

/-- Two vectors with the same entries are equal. -/
theorem vector_ext_fin {α : Type} {n : Nat} {v w : Vector α n} (h : ∀ i : Fin n, v[i] = w[i]) : v = w := by
  ext i hi; exact h ⟨i, hi⟩

/-- What one removal leaves at each letter. -/
theorem removePairing_getElem (a : Letter) (plug : Vector Letter 26) (i : Letter) :
    (removePairing a plug)[i] = if i = a then a else if i = plug[a] then plug[a] else plug[i] := by
  simp only [removePairing, plugLookup, Fin.getElem_fin, Vector.getElem_set, Fin.ext_iff]
  split <;> simp_all [eq_comm]

/-- What the install leaves at each letter. -/
theorem installPairing_getElem (a b : Letter) (plug : Vector Letter 26) (i : Letter) :
    (installPairing a b plug)[i] = if i = b then a else if i = a then b else plug[i] := by
  simp only [installPairing, Fin.getElem_fin, Vector.getElem_set, Fin.ext_iff]
  split <;> simp_all [eq_comm]

/-! ## Commands and responses -/

/-- ENC of a letter. -/
theorem encipher_letter {ch : Byte} {i : Letter} (h : letterIndex ch = some i) (cfg : Config) (s : State) :
    encipher cfg ch s = respond (letterChar (path cfg (stepRack cfg s) i)) false (stepRack cfg s) := by
  simp [encipher, h]

/-- ENC of anything else. -/
theorem encipher_nonletter {ch : Byte} (h : isLetter ch = false) (cfg : Config) (s : State) :
    encipher cfg ch s = respond ch false s := by
  simp [encipher, (letterIndex_eq_none ch).mpr h]

/-- WIRE of two letters. -/
theorem wireLetters_letters {ch1 ch2 : Byte} {a b : Letter} (ha : letterIndex ch1 = some a) (hb : letterIndex ch2 = some b)
    (s : State) : wireLetters ch1 ch2 s = respond 0x00 false (setPlug (wirePlug a b s.plug) s) := by
  simp [wireLetters, ha, hb]

/-- WIRE of anything else. -/
theorem wireLetters_nonletter {ch1 ch2 : Byte} (h : isLetter ch1 = false ∨ isLetter ch2 = false) (s : State) :
    wireLetters ch1 ch2 s = respond 0x00 false s := by
  rcases h with h | h
  · simp [wireLetters, (letterIndex_eq_none ch1).mpr h]
  · cases h1 : letterIndex ch1 <;> simp [wireLetters, h1, (letterIndex_eq_none ch2).mpr h]

/-- WIRE writes the plugboard and nothing else, as a function of the plugboard alone. -/
theorem wireLetters_writes_plug (ch1 ch2 : Byte) :
    ∃ edit : Vector Letter 26 → Vector Letter 26, ∀ s : State,
      wireLetters ch1 ch2 s = respond 0x00 false (setPlug (edit s.plug) s) := by
  cases h1 : letterIndex ch1 with
  | none => exact ⟨id, fun s => by simp [wireLetters, h1]; rfl⟩
  | some a =>
    cases h2 : letterIndex ch2 with
    | none => exact ⟨id, fun s => by simp [wireLetters, h1, h2]; rfl⟩
    | some b => exact ⟨wirePlug a b, fun s => by simp [wireLetters, h1, h2]⟩

/-- Either LDROT constructor runs the one LDROT operation. -/
theorem exec_ldrotOf (slot : Slot) (rotor : RotorId) (s : State) :
    exec (ldrotOf slot rotor) s = .next (loadRotor slot rotor s) := by
  cases rotor <;> rfl

/-- A response overwrites an earlier one. -/
@[simp] theorem respond_respond (c c' : Byte) (ill ill' : Bool) (s : State) :
    respond c ill (respond c' ill' s) = respond c ill s := rfl

/-! ## Words and edges -/

theorem execWord_ok {w : Word} {i : Instr} (h : decode w = .ok i) (s : State) : execWord w s = exec i s := by
  simp [execWord, h]

theorem execWord_error {w : Word} {e : IllegalWord} (h : decode w = .error e) (s : State) :
    execWord w s = .next (illegalWord s) := by
  simp [execWord, h]

/-- No command reads the response registers. -/
theorem exec_ignores_response (i : Instr) (s : State) (v ill : Bool) (c : Byte) :
    exec i { s with respValid := v, respChar := c, respIllegal := ill } = exec i s := by
  cases i with
  | enc ch => simp only [exec, execEnc, encipher]; split <;> rfl
  | wire ch1 ch2 => simp only [exec, execWire, wireLetters]; split <;> rfl
  | ldrot slot rotor => simp only [exec, execLdrot, loadRotor]; split <;> rfl
  | ldrotBetaGamma slot rotor => simp only [exec, execLdrotBetaGamma, loadRotor]; split <;> rfl
  | setrot => rfl
  | setring => rfl
  | ldref refl => simp only [exec, execLdref]; split <;> rfl
  | setmode => rfl
  | reset => rfl

/-- No command reads or writes the model's own two fields. -/
theorem exec_environment {i : Instr} {s t : State} (h : exec i s = .next t) (b : Bool) (inputs : List PortInput) :
    exec i { s with hasBeenReset := b, inputs := inputs } = .next { t with hasBeenReset := b, inputs := inputs } := by
  cases i with
  | enc ch =>
    cases h; simp only [exec, execEnc, encipher]; split <;> rfl
  | wire ch1 ch2 =>
    cases h; simp only [exec, execWire, wireLetters]; split <;> rfl
  | ldrot slot rotor =>
    cases h; simp only [exec, execLdrot, loadRotor]; split <;> rfl
  | ldrotBetaGamma slot rotor =>
    cases h; simp only [exec, execLdrotBetaGamma, loadRotor]; split <;> rfl
  | setrot => cases h; rfl
  | setring => cases h; rfl
  | ldref refl =>
    cases h; simp only [exec, execLdref]; split <;> rfl
  | setmode => cases h; rfl
  | reset => cases h; rfl

/-- The same of a word, legal or illegal. -/
theorem execWord_environment {w : Word} {s t : State} (h : execWord w s = .next t) (b : Bool)
    (inputs : List PortInput) :
    execWord w { s with hasBeenReset := b, inputs := inputs } = .next { t with hasBeenReset := b, inputs := inputs } := by
  cases hd : decode w with
  | ok i => rw [execWord_ok hd] at h ⊢; exact exec_environment h b inputs
  | error e => rw [execWord_error hd] at h ⊢; cases h; rfl

/-- Everything a clock edge can do. -/
theorem clockEdge_cases (input : PortInput) (s : State) :
    (∃ duty, input = .broken duty ∧ clockEdge input s = .refused (.hostDutyBroken duty)) ∨
    (∃ v w, input = .driven true v w ∧ clockEdge input s = .next (pinReset s)) ∨
    (∃ v w, input = .driven false v w ∧ s.hasBeenReset = false ∧ clockEdge input s = .refused .notReset) ∨
    (∃ w, input = .driven false true w ∧ s.hasBeenReset = true ∧ clockEdge input s = execWord w s) ∨
    (∃ w, input = .driven false false w ∧ s.hasBeenReset = true ∧ clockEdge input s = .next (clearResponse s)) := by
  rcases input with ⟨rst, v, w⟩ | duty
  · cases rst
    · cases hr : s.hasBeenReset
      · exact .inr (.inr (.inl ⟨v, w, rfl, rfl, by simp [clockEdge, hr]⟩))
      · cases v
        · exact .inr (.inr (.inr (.inr ⟨w, rfl, rfl, by simp [clockEdge, hr]⟩)))
        · exact .inr (.inr (.inr (.inl ⟨w, rfl, rfl, by simp [clockEdge, hr]⟩)))
    · exact .inr (.inl ⟨v, w, rfl, rfl⟩)
  · exact .inl ⟨duty, rfl, rfl⟩

/-- One word of a run, then the rest of it. -/
theorem runWords_cons {w : Word} {s t : State} (h : execWord w s = .next t) {ws : List Word} {u : State}
    {rs : List Response} (hr : runWords ws t = .next (u, rs)) : runWords (w :: ws) s = .next (u, response t :: rs) := by
  simp [runWords, h, hr]

end Sys2Proof.Machine
end

