-- ==== Sys2Proof/Laws/PerInstr.lean ====
section
/-!
SUPPORT. The family EncodesInTable: the word of a well-formed command satisfies a row of the opcode table that
bears its mnemonic (30_encoding.md R62). One lemma per constructor.
-/

namespace Sys2Proof.Laws.EncodesInTable

/-- The statement, of one command. -/
def Statement (i : Instr) : Prop :=
  i.wellFormed = true → ∃ row ∈ opcodeTable, row.mnemonic = i.mnemonic ∧ row.admits (encode i) = true

/-- A row admits a word when its mask and pattern, taken field by field, do. -/
theorem admits_wordOf {row : OpcodeRow} {mo ma po pa op a : Byte} {mb pb b : BitVec 16}
    (hm : row.mask = wordOf mo ma mb) (hp : row.pattern = wordOf po pa pb)
    (ho : op &&& mo = po) (ha : a &&& ma = pa) (hb : b &&& mb = pb) : row.admits (wordOf op a b) = true := by
  have h : wordOf op a b &&& wordOf mo ma mb = wordOf (op &&& mo) (a &&& ma) (b &&& mb) :=
    (append_and_append _ _ _ _).trans (congrArg (· ++ (b &&& mb)) (append_and_append _ _ _ _))
  simp only [OpcodeRow.admits, hm, hp, beq_iff_eq, h, ho, ha, hb]

theorem charField_masked (ch : Byte) : charField ch &&& 0xFF00 = 0 := by
  revert ch; decide

theorem slotField_masked (slot : Slot) : slotField slot &&& 0xFC = 0 := by
  revert slot; decide

theorem enc (ch : Byte) : Statement (.enc ch) := fun _ =>
  ⟨⟨.ENC, 0xFFFFFF00, 0x01000000⟩, by decide, rfl,
    admits_wordOf (mo := 0xFF) (ma := 0xFF) (mb := 0xFF00) (po := 0x01) (pa := 0) (pb := 0) (by decide) (by decide)
      (by decide) (by decide) (charField_masked ch)⟩

theorem wire (ch1 ch2 : Byte) : Statement (.wire ch1 ch2) := fun _ =>
  ⟨⟨.WIRE, 0xFF00FF00, 0x02000000⟩, by decide, rfl,
    admits_wordOf (mo := 0xFF) (ma := 0) (mb := 0xFF00) (po := 0x02) (pa := 0) (pb := 0) (by decide) (by decide)
      (by decide) (by simp) (charField_masked ch2)⟩

theorem ldrot (slot : Slot) (rotor : RotorId) : Statement (.ldrot slot rotor) := fun h =>
  ⟨⟨.LDROT, 0xFFFCFFF8, 0x03000000⟩, by decide, rfl,
    admits_wordOf (mo := 0xFF) (ma := 0xFC) (mb := 0xFFF8) (po := 0x03) (pa := 0) (pb := 0) (by decide) (by decide)
      (by decide) (slotField_masked slot) (by cases rotor <;> first | decide | cases h)⟩

theorem ldrotBetaGamma (slot : Slot) (rotor : RotorId) : Statement (.ldrotBetaGamma slot rotor) := fun h =>
  ⟨⟨.LDROT, 0xFFFCFFFE, 0x03000008⟩, by decide, rfl,
    admits_wordOf (mo := 0xFF) (ma := 0xFC) (mb := 0xFFFE) (po := 0x03) (pa := 0) (pb := 8) (by decide) (by decide)
      (by decide) (slotField_masked slot) (by cases rotor <;> first | decide | cases h)⟩

theorem setrot (slot : Slot) (val : Offset) : Statement (.setrot slot val) := fun _ =>
  ⟨⟨.SETROT, 0xFFFC0000, 0x04000000⟩, by decide, rfl,
    admits_wordOf (mo := 0xFF) (ma := 0xFC) (mb := 0) (po := 0x04) (pa := 0) (pb := 0) (by decide) (by decide)
      (by decide) (slotField_masked slot) (by simp)⟩

theorem setring (slot : Slot) (val : Offset) : Statement (.setring slot val) := fun _ =>
  ⟨⟨.SETRING, 0xFFFC0000, 0x05000000⟩, by decide, rfl,
    admits_wordOf (mo := 0xFF) (ma := 0xFC) (mb := 0) (po := 0x05) (pa := 0) (pb := 0) (by decide) (by decide)
      (by decide) (slotField_masked slot) (by simp)⟩

theorem ldref (refl : ReflectorId) : Statement (.ldref refl) := fun _ =>
  ⟨⟨.LDREF, 0xFFFFFFFC, 0x06000000⟩, by decide, rfl, by cases refl <;> decide⟩

theorem setmode (m : Mode) : Statement (.setmode m) := fun _ =>
  ⟨⟨.SETMODE, 0xFFFFFFFE, 0x07000000⟩, by decide, rfl, by cases m <;> decide⟩

theorem reset : Statement .reset := fun _ =>
  ⟨⟨.RESET, 0xFFFFFFFF, 0x08000000⟩, by decide, rfl, by decide⟩

end Sys2Proof.Laws.EncodesInTable
end

