-- ==== Sys2Proof/Laws/Safety.lean ====
section
/-!
SUPPORT. States with the same registers step and encipher alike, and an involution in terms of `plug_lookup`.
-/

namespace Sys2Proof.Machine

theorem sameRegisters_refl (s : State) : SameRegisters s s := ⟨rfl, rfl, rfl, rfl, rfl, rfl⟩

/-- Responding keeps the registers. -/
theorem sameRegisters_respond {s t : State} (h : SameRegisters s t) (c d : Byte) (ill ill' : Bool) :
    SameRegisters (respond c ill s) (respond d ill' t) := h

/-- Stepping reads and writes registers only. -/
theorem sameRegisters_stepRack {s t : State} (h : SameRegisters s t) (cfg : Config) :
    SameRegisters (stepRack cfg s) (stepRack cfg t) := by
  obtain ⟨hm, hid, hrot, hring, hrefl, hplug⟩ := h
  exact ⟨hm, hid, by simp only [stepRack_rotation, hid, hrot], hring, hrefl, hplug⟩

/-- The signal path reads registers only. -/
theorem sameRegisters_path {s t : State} (h : SameRegisters s t) (cfg : Config) : path cfg t = path cfg s := by
  obtain ⟨hm, hid, hrot, hring, hrefl, hplug⟩ := h
  funext i
  simp only [path, hm, hid, hrot, hring, hrefl, hplug]

/-- The two passes through an involutive plugboard cancel. -/
theorem plugLookup_plugLookup {plug : Vector Letter 26} (h : PlugInvolution plug) (i : Letter) :
    plugLookup plug (plugLookup plug i) = i := h i

/-- The plugboard test on the map itself, where no index carries a proof. -/
theorem plugInvolution_iff (plug : Vector Letter 26) : PlugInvolution plug ↔ Function.Involutive (plugLookup plug) :=
  Iff.rfl

end Sys2Proof.Machine
end

