-- ==== Sys2Proof/Tests/Slice0.lean ====
section
/-!
SUPPORT. Tests whose expected values stand in spec/95_test_vectors.md or follow from the encoding tables by hand, and
a concrete witness for the hypotheses of every statement that has some.
-/

namespace Sys2Proof.Tests

open Sys2Proof Sys2Proof.Machine

/-! ## Small states -/

/-- The next state of an outcome, if it is one. -/
def after : Host.Outcome State Fault Refusal → Option State
  | .next s => some s
  | .fault _ => none
  | .refused _ => none

/-- The refusal of an outcome, if it is one. -/
def refusal : Host.Outcome State Fault Refusal → Option Refusal
  | .next _ => none
  | .fault _ => none
  | .refused r => some r

/-- The reset state with other rotations (V-ST vectors). -/
def turned (r0 r1 r2 r3 : Letter) : State := { State.reset with rotation := #v[r0, r1, r2, r3] }

/-- The plugboard `MBCDEIGHFJKLAVOPQRSTUNWXYZ` of program P3. -/
def plugP3 : Vector Letter 26 :=
  #v[12, 1, 2, 3, 4, 8, 6, 7, 5, 9, 10, 11, 0, 21, 14, 15, 16, 17, 18, 19, 20, 13, 22, 23, 24, 25]

/-- The M4 engine after the configuration prefix of program P3. -/
def engineP3 : State :=
  { State.reset with
    mode := .m4
    rotorId := #v[.vi, .i, .iv, .gamma]
    rotation := #v[11, 16, 25, 7]
    ring := #v[3, 0, 25, 12]
    reflectorId := .cThin
    plug := plugP3 }

/-- An engine that has not been reset, its registers breaking the invariants. -/
def unresetEngine : State := { State.reset with rotorId := #v[.beta, .ii, .i, .iii], hasBeenReset := false }

/-! ## Well-formedness -/

theorem test_wellFormed_refuses_beta_in_first_ldrot_row : (Instr.ldrot 0 .beta).wellFormed = false := by decide
theorem test_wellFormed_refuses_iii_in_second_ldrot_row : (Instr.ldrotBetaGamma 3 .iii).wellFormed = false := by decide
theorem test_wellFormed_accepts_both_ldrot_rows :
    (Instr.ldrot 3 .viii).wellFormed = true ∧ (Instr.ldrotBetaGamma 0 .beta).wellFormed = true := by decide

/-! ## Decoding: words written out field by field (`op`, `a`, `b`) from 30_encoding.md R60, R63 -/

theorem test_decode_enc : decode 0b00000001_00000000_0000000001000001 = .ok (.enc 0x41) := by decide
theorem test_decode_wire : decode 0b00000010_01000001_0000000001010001 = .ok (.wire 0x41 0x51) := by decide
theorem test_decode_ldrot : decode 0b00000011_00000010_0000000000000111 = .ok (.ldrot 2 .viii) := by decide
theorem test_decode_ldrotBetaGamma : decode 0b00000011_00000011_0000000000001001 = .ok (.ldrotBetaGamma 3 .gamma) := by
  decide
theorem test_decode_setrot : decode 0b00000100_00000001_1000000000000000 = .ok (.setrot 1 0x8000) := by decide
theorem test_decode_setring : decode 0b00000101_00000010_0000000000011011 = .ok (.setring 2 0x001B) := by decide
theorem test_decode_ldref : decode 0b00000110_00000000_0000000000000010 = .ok (.ldref .bThin) := by decide
theorem test_decode_setmode : decode 0b00000111_00000000_0000000000000001 = .ok (.setmode .m4) := by decide
theorem test_decode_reset : decode 0b00001000_00000000_0000000000000000 = .ok .reset := by decide

/-- One word for each reason of R66. -/
theorem test_decode_rejects :
    decode 0b00000000_00000000_0000000000000000 = .error .unknownOpcode ∧
      decode 0b00001001_00000000_0000000000000000 = .error .unknownOpcode ∧
      decode 0b00000001_00000000_0000000101000001 = .error .mustBeZeroBit ∧
      decode 0b00000011_00000000_0000000000001010 = .error .rotorCode := by decide

/-- A shorter word is read with zeros above it: the low byte alone has opcode 0; 64 bits hold no command. -/
theorem test_decodeTableWord_width :
    decodeTableWord 8 0x41 = none ∧ decodeTableWord 32 0x08000000 = some .reset ∧
      decodeTableWord 64 0x08000000 = none := by decide

/-! ## Assembling -/

/-- The lines `ENC 0x40` and `ENC 0xC4` of 95_test_vectors.md section 4, `WIRE 0x00, 0x00` of section 7, and a binary
number (R7). -/
theorem test_assemble_based_numbers :
    assembleText
        [ ['E', 'N', 'C', ' ', '0', 'x', '4', '0'],
          ['E', 'N', 'C', ' ', '0', 'x', 'C', '4'],
          ['W', 'I', 'R', 'E', ' ', '0', 'x', '0', '0', ',', ' ', '0', 'x', '0', '0'],
          ['S', 'E', 'T', 'M', 'O', 'D', 'E', ' ', '0', 'b', '1'] ] =
      some [0x01000040, 0x010000C4, 0x02000000, 0x07000001] := by decide

/-- A prefix without digits, a digit that the base lacks, and a number above 255 have no assembly. -/
theorem test_assemble_rejects_numbers :
    number ['0', 'x'] = none ∧ number ['0', 'b', '2'] = none ∧ number ['1', 'F'] = none ∧
      assembleText [['E', 'N', 'C', ' ', '0', 'x', '1', '0', '0']] = none := by decide

/-! ## One step of each instruction -/

/-- P3 word 22: slot 1 on its notch, the response `T`. -/
theorem test_enc_m4 :
    (after (exec (.enc 0x45) engineP3)).map (fun t => (response t, t.rotation)) =
      some (⟨0x54, false⟩, #v[12, 17, 0, 7]) := by decide

/-- P5 word 8: a lower-case letter through a plugged pair, the response `Q`. -/
theorem test_enc_lower_case_plugged :
    (after (exec (.enc 0x62) { State.reset with plug := wirePlug 1 2 State.reset.plug })).map
      (fun t => (response t, t.rotation)) = some (⟨0x51, false⟩, #v[1, 0, 0, 0]) := by decide

/-- V-ST9: both notches at once, with a wrap of slot 2. -/
theorem test_step_both_on_notch : (stepRack engineConfig (turned 21 4 25 0)).rotation = #v[22, 6, 0, 0] := by decide

/-- V-ST7: wraps of slot 0 and slot 2. -/
theorem test_step_wraps : (stepRack engineConfig (turned 25 4 25 9)).rotation = #v[0, 5, 0, 9] := by decide

/-- R88: a forward and an inverse pass whose rotation and ring setting differ. -/
theorem test_wheel_values :
    applyForward engineConfig .beta 13 7 3 = 16 ∧ applyForward engineConfig .v 3 20 19 = 18 ∧
      applyInverse engineConfig .i 16 5 2 = 25 ∧ applyInverse engineConfig .beta 13 7 15 = 24 := by decide

/-- P5 word 3 from the state before it: Z's old partner A is freed. -/
theorem test_wire_frees_old_partner :
    (after (exec (.wire 0x51 0x5A) { State.reset with plug := wirePlug 0 25 State.reset.plug })).map
      (fun t => (t.plug[0], t.plug[16], t.plug[25])) = some (0, 25, 16) := by decide

/-- P5 word 4: a non-letter operand. -/
theorem test_wire_nonletter :
    (after (exec (.wire 0x31 0x41) engineP3)).map (fun t => (response t, t.plug)) =
      some (⟨0x00, false⟩, plugP3) := by decide

/-- V-C5: the slot's offsets are kept. -/
theorem test_ldrot_keeps_offsets :
    (after (exec (.ldrot 1 .iv) { turned 0 9 0 0 with ring := #v[0, 4, 0, 0] })).map
      (fun t => (t.rotorId, t.rotation, t.ring)) =
      some (#v[.iii, .iv, .i, .beta], #v[0, 9, 0, 0], #v[0, 4, 0, 0]) := by decide

/-- V-C3: the rotors I..VIII are refused in slot 3. -/
theorem test_ldrot_ignored_in_slot3 :
    (after (exec (.ldrot 3 .iii) State.reset)).map (fun t => (response t, t.rotorId)) =
      some (⟨0x00, false⟩, #v[.iii, .ii, .i, .beta]) := by decide

/-- V-C4: slot 3 is loadable in M3. -/
theorem test_ldrotBetaGamma_in_m3 :
    (after (exec (.ldrotBetaGamma 3 .gamma) State.reset)).map State.rotorId = some #v[.iii, .ii, .i, .gamma] := by decide

/-- V-C2: Beta is refused in slot 0. -/
theorem test_ldrotBetaGamma_ignored_in_slot0 :
    (after (exec (.ldrotBetaGamma 0 .beta) State.reset)).map State.rotorId = some #v[.iii, .ii, .i, .beta] := by decide

/-- V-C8: the most negative operand. -/
theorem test_setrot_most_negative :
    (after (exec (.setrot 1 0x8000) State.reset)).map State.rotation = some #v[0, 18, 0, 0] := by decide

/-- V-C11: the most positive operand. -/
theorem test_setring_most_positive :
    (after (exec (.setring 0 0x7FFF) State.reset)).map State.ring = some #v[7, 0, 0, 0] := by decide

/-- V-C13 and V-C15. -/
theorem test_ldref_variant :
    (after (exec (.ldref .bThin) State.reset)).map State.reflectorId = some .b ∧
      (after (exec (.ldref .cThin) { State.reset with mode := .m4, reflectorId := .bThin })).map State.reflectorId =
        some .cThin := by decide

/-- V-C20: back to M3; slot 3 keeps its contents. -/
theorem test_setmode_m3 :
    (after (exec (.setmode .m3) engineP3)).map
      (fun t => (t.mode, t.reflectorId, t.rotorId[3], t.rotation[3], t.ring[3])) =
      some (.m3, .c, .gamma, 7, 12) := by decide

/-- R130, from the engine of P3. -/
theorem test_reset : after (exec .reset engineP3) = some (respond 0x00 false State.reset) := by decide

/-- P6 word 15: a RESET word with a non-zero `b` resets nothing. -/
theorem test_illegal_word : after (execWord 0x08000001 engineP3) = some (respond 0x00 true engineP3) := by decide

/-- The edges of 95_test_vectors.md section 8: edge 1 answers `B`; edge 4 resets and drops its command. -/
theorem test_edges :
    (after (clockEdge (.driven false true 0x01000041) State.reset)).map (fun t => (t.respValid, t.respChar, t.rotation[0])) =
        some (true, 0x42, 1) ∧
      (after (clockEdge (.driven true true 0x01000041) (turned 1 0 0 0))).map (fun t => (t.respValid, t.rotation[0])) =
        some (false, 0) := by decide

/-- A fetched word is the very next one executed, whatever the host meant to drive. -/
theorem test_withFetchWord :
    after (step (State.withFetchWord { State.reset with inputs := [.broken .stablePins] } 32 0x04000014)) =
      some (respond 0x00 false { turned 20 0 0 0 with inputs := [.broken .stablePins] }) := by decide

/-- An engine that has not been reset, and a host that breaks a duty. -/
theorem test_refusals :
    refusal (step (presentWord 0x01000041 unresetEngine)) = some .notReset ∧
      refusal (step { State.reset with inputs := [.broken .singleDriver] }) = some (.hostDutyBroken .singleDriver) := by
  decide

/-! ## Witnesses for the hypotheses of the statements -/

/-- EncodeThenDecodeReturnsTheCommand, at the ends of the two LDROT rows. -/
theorem witness_wellFormed :
    (Instr.ldrot 0 .i).wellFormed = true ∧ (Instr.ldrot 3 .viii).wellFormed = true ∧
      (Instr.ldrotBetaGamma 0 .beta).wellFormed = true ∧ (Instr.ldrotBetaGamma 3 .gamma).wellFormed = true ∧
      (Instr.enc 0xFF).wellFormed = true ∧ (Instr.wire 0x00 0xFF).wellFormed = true ∧
      (Instr.setrot 3 0xFFFF).wellFormed = true ∧ (Instr.setring 3 0x8000).wellFormed = true ∧
      (Instr.ldref .cThin).wellFormed = true ∧ (Instr.setmode .m3).wellFormed = true ∧
      Instr.reset.wellFormed = true := by decide

/-- DecodedWordIsTheEncodingOfItsCommand and DecodeAcceptsExactlyTheOpcodeTable: the last word of each LDROT row is
admitted and decodes. -/
theorem witness_legal_words :
    decode 0x03030007 = .ok (.ldrot 3 .viii) ∧ decode 0x03030009 = .ok (.ldrotBetaGamma 3 .gamma) ∧
      (∃ row ∈ opcodeTable, row.admits 0x03030007 = true) ∧ (∃ row ∈ opcodeTable, row.admits 0x03030009 = true) := by
  decide

/-- IllegalWordChangesNoRegister and ResponsesFollowTheTable: no row admits the word, and it decodes to an error. -/
theorem witness_illegal_words :
    (∀ row ∈ opcodeTable, row.admits 0x0300000A = false) ∧ decode 0x0300000A = .error .rotorCode ∧
      decode 0x01000141 = .error .mustBeZeroBit ∧ decode 0xFFFFFFFF = .error .unknownOpcode := by decide

/-- StepExecutesThePresentedWord: an engine that has been reset with a legal and with an illegal word presented. -/
theorem witness_presented_words :
    (presentWord 0x01000041 State.reset).hasBeenReset = true ∧
      (presentWord 0x01000041 State.reset).inputs = .driven false true 0x01000041 :: [] ∧
      decode 0x01000041 = .ok (.enc 0x41) ∧
      (presentWord 0x09000000 engineP3).inputs = .driven false true 0x09000000 :: [] ∧
      decode 0x09000000 = .error .unknownOpcode := by decide

/-- ClockEdgeFollowsItsThreeArms and BothResetsLoadTheSameState: one state for each arm. -/
theorem witness_three_arms :
    ({ unresetEngine with inputs := [.driven true true 0x01000041] } : State).inputs = .driven true true 0x01000041 :: [] ∧
      (presentWord 0x01000041 State.reset).hasBeenReset = true ∧
      ({ State.reset with inputs := [.driven false false 0xFFFFFFFF] } : State).inputs =
        .driven false false 0xFFFFFFFF :: [] := by decide

/-- StepRefusesOnlyOutsideTheSpec: each way to be refused. -/
theorem witness_refused_steps :
    refusal (step unresetEngine) = some .notReset ∧
      refusal (step { unresetEngine with inputs := [.driven false false 0] }) = some .notReset ∧
      refusal (step { unresetEngine with inputs := [.broken .stablePins] }) = some (.hostDutyBroken .stablePins) := by
  decide

/-- EncEnciphersThroughTheSteppedPath, NonLettersPassThroughWithoutStepping, ResponsesFollowTheTable,
CommandsWriteOnlyTheirRegisters, WireRemovesThenInstalls and CharactersFollowTheCodeRanges: letters and non-letters at the ends of R86's ranges. -/
theorem witness_letters :
    letterIndex 0x41 = some 0 ∧ letterIndex 0x5A = some 25 ∧ letterIndex 0x61 = some 0 ∧ letterIndex 0x7A = some 25 ∧
      isLetter 0x40 = false ∧ isLetter 0x5B = false ∧ isLetter 0x60 = false ∧ isLetter 0x7B = false ∧
      isLetter 0xC4 = false := by decide

/-- EncEnciphersThroughTheSteppedPath: a letter in both cases, at both ends of the alphabet. -/
theorem witness_case_pair :
    isUpper 0x41 = true ∧ (0x61 : Byte).toNat = (0x41 : Byte).toNat + 0x20 ∧ isUpper 0x5A = true ∧
      (0x7A : Byte).toNat = (0x5A : Byte).toNat + 0x20 := by decide

/-- ResponsesFollowTheTable: a command that is no ENC. -/
theorem witness_not_enc : ∀ ch : Byte, Instr.reset ≠ .enc ch := by intro ch h; cases h

/-- KeystrokeFollowsTheStepTable and SourceSteppingExamples: a state for each row of the table. -/
theorem witness_step_rows :
    isLetter 0x41 = true ∧
      ((turned 0 0 0 0).rotation[1] ∉ engineConfig.notch .ii ∧ (turned 0 0 0 0).rotation[0] ∉ engineConfig.notch .iii) ∧
      ((turned 21 10 0 0).rotation[1] ∉ engineConfig.notch .ii ∧ (turned 21 10 0 0).rotation[0] ∈ engineConfig.notch .iii) ∧
      ((turned 20 4 0 0).rotation[1] ∈ engineConfig.notch .ii ∧ (turned 20 4 0 0).rotation[0] ∉ engineConfig.notch .iii) ∧
      ((turned 21 4 0 0).rotation[1] ∈ engineConfig.notch .ii ∧ (turned 21 4 0 0).rotation[0] ∈ engineConfig.notch .iii) := by
  decide

/-- SourceSteppingExamples: the first example's registers. -/
theorem witness_simple_carry :
    (21 : Letter) ∈ engineConfig.notch (turned 21 10 3 0).rotorId[0] ∧
      (10 : Letter) ∉ engineConfig.notch (turned 21 10 3 0).rotorId[1] ∧ (turned 21 10 3 0).rotation[0] = 21 ∧
      (turned 21 10 3 0).rotation[1] = 10 := by decide

/-- SlotThreeAndTheSlowNotchNeverMatter: a configuration that meets R41 and a keystroke that moves slot 2 of an engine
whose slot 3 holds Gamma. -/
theorem witness_slow_rotor_moves :
    engineConfig.WF ∧ (stepRack engineConfig engineP3).rotation[2] ≠ engineP3.rotation[2] ∧ SlotsFit engineP3 ∧
      engineP3.rotorId[3] = .gamma :=
  ⟨engineConfig_wf, by decide, by decide, rfl⟩

/-- RackReturnsAfterExactly16900Keystrokes: texts of every length asked about. -/
theorem witness_long_text (n : Nat) :
    (∀ ch ∈ List.replicate n (0x41 : Byte), isLetter ch = true) ∧ (List.replicate n (0x41 : Byte)).length = n :=
  ⟨fun _ h => by rw [List.eq_of_mem_replicate h]; decide, List.length_replicate⟩

/-- SteppingReadsOnlyItsOwnInputs: engines that differ in everything stepping does not read. -/
theorem witness_same_step_inputs :
    isLetter 0x41 = true ∧ isLetter 0x7A = true ∧
      ({ engineP3 with rotorId := #v[.iii, .ii, .v, .gamma], rotation := #v[21, 4, 25, 7] } : State).rotorId[0] =
        (turned 21 4 25 0).rotorId[0] ∧
      ({ engineP3 with rotorId := #v[.iii, .ii, .v, .gamma], rotation := #v[21, 4, 25, 7] } : State).rotorId[1] =
        (turned 21 4 25 0).rotorId[1] ∧
      (∀ slot : Slot, slot ≠ 3 →
        ({ engineP3 with rotorId := #v[.iii, .ii, .v, .gamma], rotation := #v[21, 4, 25, 7] } : State).rotation[slot] =
          (turned 21 4 25 0).rotation[slot]) := by decide

/-- WheelLawsHoldOfEveryConfiguration, PathIsAnInvolution, NoLetterEnciphersToItself, CipherIsReciprocalOverTexts: the
engine's tables, and a plugboard with pairs. -/
theorem witness_involutive_path :
    engineConfig.WF ∧ ReflectorsMoveEveryLetter engineConfig ∧ PlugInvolution engineP3.plug ∧
      SameRegisters engineP3 { engineP3 with respChar := 0x41, inputs := [.driven true false 0] } :=
  ⟨engineConfig_wf, reflTable_moves, by decide, by decide⟩

/-- FourthRotorWithThinReflectorMatchesM3, both clauses. -/
theorem witness_thin_reflectors :
    (∃ s : State, s.mode = .m4 ∧ s.rotation[3] = s.ring[3] ∧ s.ring[3] = 12 ∧ s.rotorId[3] = .beta ∧
      s.reflectorId = .bThin) ∧
    (∃ s : State, s.mode = .m4 ∧ s.rotation[3] = s.ring[3] ∧ s.ring[3] = 12 ∧ s.rotorId[3] = .gamma ∧
      s.reflectorId = .cThin) :=
  ⟨⟨{ engineP3 with rotorId := #v[.vi, .i, .iv, .beta], rotation := #v[11, 16, 25, 12], reflectorId := .bThin },
      by decide⟩,
    ⟨{ engineP3 with rotation := #v[11, 16, 25, 12] }, by decide⟩⟩

/-- SlotThreeIsKeptInBothModes: two engines that differ in slot 3 only, and each command that writes slot 3. -/
theorem witness_slot_three :
    (turned 1 2 3 4).mode = .m3 ∧
      SameButSlot3 (turned 1 2 3 4) { turned 1 2 3 9 with rotorId := #v[.iii, .ii, .i, .gamma], ring := #v[0, 0, 0, 5] } ∧
      slotWritten (.ldrot 3 .iii) = some 3 ∧ slotWritten (.ldrotBetaGamma 3 .gamma) = some 3 ∧
      slotWritten (.setrot 3 0x0005) = some 3 ∧ slotWritten (.setring 3 0xFFFF) = some 3 := by decide

/-- SetrotStoresTheFlooredResidue and SetringStoresTheFlooredResidue: listed corners of R85 A6, and an M3 engine. -/
theorem witness_residues :
    offsetLetter 0x001A = 0 ∧ offsetLetter 0xFFFF = 25 ∧ offsetLetter 0x8000 = 18 ∧ offsetLetter 0x7FFF = 7 ∧
      (turned 21 4 25 0).mode = .m3 := by decide

/-- HostReducedOffsetsGiveTheSameResult: different operands with one residue, of either sign. -/
theorem witness_same_residue : (0xFFFF : Offset).toInt % 26 = (0x0019 : Offset).toInt % 26 := by decide

/-- LdrotWritesOnlyACompatibleRotor: a compatible and an incompatible pairing of each row. -/
theorem witness_compatibility :
    rotorFitsSlot 0 .viii = true ∧ rotorFitsSlot 3 .beta = true ∧ rotorFitsSlot 3 .viii = false ∧
      rotorFitsSlot 2 .gamma = false := by decide

/-- SetmodeRepairsTheReflector and SwitchingModesBackRestoresTheReflector: fitting reflectors in both modes, and a
real switch. -/
theorem witness_reflectors_fit :
    ReflectorFits State.reset ∧ ReflectorFits engineP3 ∧ Mode.m4 ≠ State.reset.mode ∧ Mode.m3 ≠ engineP3.mode := by decide

/-- ConfigurationCommandsCommute: commands on different slots. -/
theorem witness_different_slots :
    slotWritten (.ldrot 0 .v) = some 0 ∧ slotWritten (.setring 3 0x0001) = some 3 ∧ (0 : Slot) ≠ 3 := by decide

/-- WireOnAnInvolutionInClosedForm, WireKeepsThePlugboardAnInvolution, WireIsSymmetric: two letters that both have
partners. -/
theorem witness_wire_of_paired_letters :
    PlugInvolution plugP3 ∧ letterIndex 0x41 = some 0 ∧ letterIndex 0x66 = some 5 ∧ plugP3[0] ≠ 0 ∧ plugP3[5] ≠ 5 := by
  decide

/-- EveryInvolutionIsReachableByWires: an involution with 13 pairs, and a start that is no involution. -/
theorem witness_thirteen_pairs :
    PlugInvolution (Vector.ofFn fun i : Fin 26 => (25 : Letter) - i) ∧
      ¬ PlugInvolution (Vector.ofFn fun _ : Fin 26 => (3 : Letter)) := by decide

/-- CommandsWriteOnlyTheirRegisters: a letter that WIRE of A and F leaves alone, a slot that LDROT leaves alone. -/
theorem witness_untouched_entries :
    (21 : Letter) ≠ 0 ∧ (21 : Letter) ≠ 5 ∧ (21 : Letter) ≠ plugP3[0] ∧ (21 : Letter) ≠ plugP3[5] ∧ (1 : Slot) ≠ 0 := by
  decide

/-- The reset state and the engine of P3 meet the invariants (EveryCommandKeepsTheInvariants,
SettingsReloadRestoresTheMachine). -/
theorem reset_inv : Inv State.reset ∧ Inv engineP3 ∧ ∀ i : Letter, (turned 1 2 3 4).plug[i] = i := by decide

/-- EveryStepKeepsTheInvariants: a pin reset of an engine whose registers break the invariants, and a keystroke. -/
theorem witness_steps :
    ¬ Inv unresetEngine ∧ InvAfterReset unresetEngine ∧
      (after (step { unresetEngine with inputs := [.driven true false 0] })).isSome = true ∧
      InvAfterReset (presentWord 0x01000041 engineP3) ∧ (after (step (presentWord 0x01000041 engineP3))).isSome = true := by
  decide

/-- SettingsLinesExpand: a load that is ignored, and codes outside the enumerations. -/
theorem witness_ignored_line :
    rotorFitsSlot 3 .iii = false ∧ expandLine (.mode 2) = [] ∧ expandLine (.reflector 4) = [] ∧
      expandLine (.rotor 4 0 0 0) = [] ∧ expandLine (.rotor 0 10 0 0) = [] := by decide

/-- PresentedWordsRunAsTheFoldOfExec: an engine with two words presented and more to come. -/
theorem witness_presented_run :
    ({ engineP3 with inputs := [.driven false true 0x01000041, .driven false true 0x08000001, .driven false false 0] } :
        State).inputs =
      [0x01000041, 0x08000001].map (PortInput.driven false true) ++ [.driven false false 0] ∧
      engineP3.hasBeenReset = true := by decide

end Sys2Proof.Tests
end

/-! SUPPORT. The family '10_state.md': the response table (R24), the three arms of a rising edge (R26), slot 3 in both
modes (R21). -/

namespace Sys2Proof.Machine

/-! ## What every command answers (R24) -/

/-- WIRE answers `(0x00, 0)`, whether it took effect or was ignored. -/
theorem wireLetters_responds (ch1 ch2 : Byte) (s : State) : ∃ u, wireLetters ch1 ch2 s = respond 0x00 false u := by
  obtain ⟨edit, hedit⟩ := wireLetters_writes_plug ch1 ch2
  exact ⟨_, hedit s⟩

/-- Every command but ENC answers `(0x00, 0)`. -/
theorem exec_responds_zero {i : Instr} (h : ∀ ch, i ≠ .enc ch) (s : State) :
    ∃ u, exec i s = .next (respond 0x00 false u) := by
  cases i with
  | enc ch => exact absurd rfl (h ch)
  | wire ch1 ch2 =>
    obtain ⟨u, hu⟩ := wireLetters_responds ch1 ch2 s
    exact ⟨u, congrArg Host.Outcome.next hu⟩
  | ldrot | ldrotBetaGamma | setrot | setring | ldref | setmode | reset => exact ⟨_, rfl⟩

/-- ENC of a letter steps the rack and answers the enciphered letter. -/
theorem exec_enc_letter {ch : Byte} {i : Letter} (h : letterIndex ch = some i) (s : State) :
    exec (.enc ch) s =
      .next (respond (letterChar (path engineConfig (stepRack engineConfig s) i)) false (stepRack engineConfig s)) :=
  congrArg Host.Outcome.next (encipher_letter h engineConfig s)

/-- ENC of a non-letter answers its operand and changes nothing else. -/
theorem exec_enc_nonletter {ch : Byte} (h : isLetter ch = false) (s : State) :
    exec (.enc ch) s = .next (respond ch false s) :=
  congrArg Host.Outcome.next (encipher_nonletter h engineConfig s)

/-- Every legal command loads a response without the illegal flag. -/
theorem exec_responds (i : Instr) (s : State) : ∃ c u, exec i s = .next (respond c false u) := by
  by_cases henc : ∃ ch, i = .enc ch
  · obtain ⟨ch, rfl⟩ := henc
    cases hl : isLetter ch with
    | true =>
      obtain ⟨k, hk⟩ := letterIndex_of_isLetter hl
      exact ⟨_, _, exec_enc_letter hk s⟩
    | false => exact ⟨_, _, exec_enc_nonletter hl s⟩
  · obtain ⟨u, hu⟩ := exec_responds_zero (not_exists.mp henc) s
    exact ⟨_, u, hu⟩

/-- Every word, legal or illegal, completes and loads a response. -/
theorem execWord_responds (w : Word) (s : State) : ∃ c ill u, execWord w s = .next (respond c ill u) := by
  cases hd : decode w with
  | ok i =>
    obtain ⟨c, u, hu⟩ := exec_responds i s
    exact ⟨c, false, u, (execWord_ok hd s).trans hu⟩
  | error e => exact ⟨_, _, s, execWord_error hd s⟩

/-- Settles O18, row by row: what each kind of command hands to `respond`. -/
theorem responsesFollowTheTable : Obligations.ResponsesFollowTheTable := by
  intro s
  refine ⟨fun ch i hi => ?_, fun ch hch => ?_, fun i hi => ?_, fun w e he => ?_⟩
  · obtain ⟨hlow, hhigh⟩ := letterChar_range (path engineConfig (stepRack engineConfig s) i)
    exact ⟨_, exec_enc_letter hi s, rfl, hlow, hhigh, rfl, rfl⟩
  · exact ⟨_, exec_enc_nonletter hch s, rfl, rfl⟩
  · obtain ⟨u, hu⟩ := exec_responds_zero hi s
    exact ⟨_, hu, rfl, rfl⟩
  · exact ⟨_, execWord_error he s, rfl, rfl⟩

/-! ## The arms of a rising edge (R26) -/

/-- A step clocks in the next input, taken off the host's list. -/
theorem step_eq_clockEdge {s : State} {input : PortInput} {rest : List PortInput} (h : s.inputs = input :: rest) :
    step s = clockEdge input { s with inputs := rest } := by
  simp [step, nextInput, h]

/-- Pin reset wins over everything else at its edge, in every state. -/
theorem clockEdge_rst (v : Bool) (w : Word) (s : State) :
    clockEdge (.driven true v w) s = .next (pinReset s) := rfl

/-- A valid command executes in an engine that has been reset. -/
theorem clockEdge_command {s : State} (h : s.hasBeenReset = true) (w : Word) :
    clockEdge (.driven false true w) s = execWord w s := by
  simp [clockEdge, h]

/-- An edge without a command clears the response registers of an engine that has been reset. -/
theorem clockEdge_idle {s : State} (h : s.hasBeenReset = true) (w : Word) :
    clockEdge (.driven false false w) s = .next (clearResponse s) := by
  simp [clockEdge, h]

/-- Pin reset leaves nothing of a state but what the host will drive. -/
theorem pinReset_eq (s : State) : pinReset s = { State.reset with inputs := s.inputs } := rfl

/-- Settles O9, one arm of the clock edge after the other. -/
theorem clockEdgeFollowsItsThreeArms : Obligations.ClockEdgeFollowsItsThreeArms := by
  refine ⟨fun s v w rest hin => ?_, fun s w rest hreset hin => ?_, fun s w rest hreset hin => ?_⟩
  · exact (step_eq_clockEdge hin).trans ((clockEdge_rst v w _).trans (congrArg Host.Outcome.next (pinReset_eq _)))
  · obtain ⟨c, ill, u, hu⟩ := execWord_responds w { s with inputs := rest }
    have hstep : step s = execWord w { s with inputs := rest } :=
      (step_eq_clockEdge hin).trans (clockEdge_command (s := { s with inputs := rest }) hreset w)
    exact ⟨_, hu, rfl, hstep.trans hu⟩
  · exact (step_eq_clockEdge hin).trans (clockEdge_idle (s := { s with inputs := rest }) hreset w)

/-! ## Slot 3 (R21) -/

/-- A keystroke leaves the rotation of slot 3. -/
@[simp] theorem stepRack_rotation_three (cfg : Config) (s : State) :
    (stepRack cfg s).rotation[3] = s.rotation[3] := by
  simp [stepRack_rotation]

/-- Responding keeps what two states that differ in slot 3 only have in common. -/
theorem sameButSlot3_respond {s t : State} (h : SameButSlot3 s t) (c d : Byte) (ill ill' : Bool) :
    SameButSlot3 (respond c ill s) (respond d ill' t) := h

/-- Stepping neither reads nor writes slot 3. -/
theorem sameButSlot3_stepRack {s t : State} (h : SameButSlot3 s t) (cfg : Config) :
    SameButSlot3 (stepRack cfg s) (stepRack cfg t) := by
  obtain ⟨hm, hrefl, hplug, hslots⟩ := h
  obtain ⟨hid0, hrot0, -⟩ : t.rotorId[0] = s.rotorId[0] ∧ t.rotation[0] = s.rotation[0] ∧ _ := hslots 0 (by decide)
  obtain ⟨hid1, hrot1, -⟩ : t.rotorId[1] = s.rotorId[1] ∧ t.rotation[1] = s.rotation[1] ∧ _ := hslots 1 (by decide)
  obtain ⟨-, hrot2, -⟩ : _ ∧ t.rotation[2] = s.rotation[2] ∧ _ := hslots 2 (by decide)
  refine ⟨hm, hrefl, hplug, fun slot hslot => ?_⟩
  obtain ⟨hid, hrot, hring⟩ := hslots slot hslot
  refine ⟨hid, ?_, hring⟩
  rw [Fin.getElem_fin, Fin.getElem_fin] at hrot
  simp only [stepRack_rotation, hid0, hid1, hrot0, hrot1, hrot2, hrot, Fin.getElem_fin, Vector.getElem_set]

/-- The signal through a list of rotors reads the slots of the list only. -/
theorem throughRotors_congr {cfg : Config} {dir : Direction} {s t : State} {slots : List Slot}
    (h : ∀ slot ∈ slots,
      t.rotorId[slot] = s.rotorId[slot] ∧ t.rotation[slot] = s.rotation[slot] ∧ t.ring[slot] = s.ring[slot])
    (i : Letter) :
    throughRotors cfg dir t.rotorId t.rotation t.ring slots i =
      throughRotors cfg dir s.rotorId s.rotation s.ring slots i := by
  induction slots generalizing i with
  | nil => rfl
  | cons slot slots ih =>
    obtain ⟨hid, hrot, hring⟩ := h slot List.mem_cons_self
    rw [throughRotors_cons, throughRotors_cons, hid, hrot, hring]
    exact ih (fun k hk => h k (List.mem_cons_of_mem _ hk)) _

/-- Slot 3 is not active in M3. -/
theorem ne_three_of_mem_activeSlots_m3 {slot : Slot} (h : slot ∈ activeSlots .m3) : slot ≠ 3 := by
  revert slot; decide

/-- The signal path of an M3 engine does not read slot 3. -/
theorem sameButSlot3_path {s t : State} (h : SameButSlot3 s t) (hm3 : s.mode = .m3) (cfg : Config) :
    path cfg t = path cfg s := by
  obtain ⟨hm, hrefl, hplug, hslots⟩ := h
  have hforward := fun slot hslot => hslots slot (ne_three_of_mem_activeSlots_m3 hslot)
  have hinverse := fun slot hslot => hforward slot (List.mem_reverse.mp hslot)
  funext i
  simp only [path, permutationSubstitutionPipeline, hm, hrefl, hplug, hm3]
  rw [throughRotors_congr hforward, throughRotors_congr hinverse]

/-- ENC in M3 neither reads nor writes slot 3. -/
theorem exec_enc_sameButSlot3 {s s' : State} (hm3 : s.mode = .m3) (h : SameButSlot3 s s') (ch : Byte) :
    ∃ t t', exec (.enc ch) s = .next t ∧ exec (.enc ch) s' = .next t' ∧ response t' = response t ∧ SameButSlot3 t t' ∧
      t.rotorId[3] = s.rotorId[3] ∧ t.rotation[3] = s.rotation[3] ∧ t.ring[3] = s.ring[3] := by
  cases hl : isLetter ch with
  | true =>
    obtain ⟨i, hi⟩ := letterIndex_of_isLetter hl
    have hstep := sameButSlot3_stepRack h engineConfig
    refine ⟨_, _, exec_enc_letter hi s, exec_enc_letter hi s', ?_, sameButSlot3_respond hstep .., rfl,
      stepRack_rotation_three engineConfig s, rfl⟩
    simp only [response, respond_respChar, respond_respIllegal, sameButSlot3_path hstep hm3]
  | false =>
    exact ⟨_, _, exec_enc_nonletter hl s, exec_enc_nonletter hl s', rfl, sameButSlot3_respond h .., rfl, rfl, rfl⟩

/-- LDROT does not read the mode. -/
theorem loadRotor_mode_irrelevant (slot : Slot) (rotor : RotorId) (s : State) (m : Mode) :
    loadRotor slot rotor { s with mode := m } = { loadRotor slot rotor s with mode := m } := by
  unfold loadRotor
  split <;> rfl

/-- LDROT, SETROT and SETRING have the same effect in either mode, on every slot. -/
theorem exec_slot_command_mode_irrelevant {i : Instr} {slot : Slot} (h : slotWritten i = some slot) (s : State)
    (m : Mode) : ∃ t, exec i s = .next t ∧ exec i { s with mode := m } = .next { t with mode := m } := by
  cases i with
  | ldrot k rotor | ldrotBetaGamma k rotor =>
    exact ⟨_, rfl, congrArg Host.Outcome.next (loadRotor_mode_irrelevant k rotor s m)⟩
  | setrot | setring => exact ⟨_, rfl, rfl⟩
  | enc | wire | ldref | setmode | reset => cases h

/-- Settles O30: the signal path of an M3 engine reads the slots 0, 1, 2 only, and no slot command reads the mode. -/
theorem slotThreeIsKeptInBothModes : Obligations.SlotThreeIsKeptInBothModes :=
  ⟨fun _ _ ch hm3 h => exec_enc_sameButSlot3 hm3 h ch, fun s m _ h => exec_slot_command_mode_irrelevant h s m,
    fun _ _ => ⟨_, rfl, rfl, rfl, rfl⟩⟩

end Sys2Proof.Machine

/-! SUPPORT. The family '30_encoding.md': the decoder and the opcode table admit the same words (R61), the reasons a
word is illegal (R66), the pseudo-instructions (R71). -/

namespace Sys2Proof

/-! ## Fields as numbers (R60) -/

theorem toNat_fieldOp (w : Word) : (fieldOp w).toNat = w.toNat / 2 ^ 24 := by
  rw [fieldOp, BitVec.extractLsb'_toNat, Nat.shiftRight_eq_div_pow]
  omega

theorem toNat_fieldA (w : Word) : (fieldA w).toNat = w.toNat / 2 ^ 16 % 2 ^ 8 := by
  rw [fieldA, BitVec.extractLsb'_toNat, Nat.shiftRight_eq_div_pow]

theorem toNat_fieldB (w : Word) : (fieldB w).toNat = w.toNat % 2 ^ 16 := by
  simp [fieldB]

/-- The bits from position `k` upwards are zero exactly when nothing is left of the number above them. -/
theorem extractLsb'_eq_zero_iff {n k l : Nat} (h : n ≤ k + l) (x : BitVec n) :
    x.extractLsb' k l = 0#l ↔ x.toNat / 2 ^ k = 0 := by
  have hlt : x.toNat / 2 ^ k < 2 ^ l := by
    rw [Nat.div_lt_iff_lt_mul (Nat.two_pow_pos k), ← Nat.pow_add, Nat.add_comm l k]
    exact x.isLt.trans_le (Nat.pow_le_pow_right (by decide) h)
  rw [← BitVec.toNat_inj, BitVec.extractLsb'_toNat, Nat.shiftRight_eq_div_pow, Nat.mod_eq_of_lt hlt, BitVec.toNat_zero]

theorem highByte_eq_zero_iff (b : BitVec 16) : highByte b = 0#8 ↔ b.toNat / 2 ^ 8 = 0 :=
  extractLsb'_eq_zero_iff (by decide) b

theorem aboveSlot_eq_zero_iff (a : Byte) : aboveSlot a = 0#6 ↔ a.toNat / 2 ^ 2 = 0 :=
  extractLsb'_eq_zero_iff (by decide) a

/-- A code names no rotor exactly from 10 on. -/
theorem RotorId.ofCode_eq_none_iff (n : Nat) : RotorId.ofCode n = none ↔ 10 ≤ n := by
  unfold RotorId.ofCode
  split <;> simp_all
  omega

/-- `b` of format SK is the rotor code of its low four bits. -/
theorem ofNat_code_of_ofCode {b : BitVec 16} {rotor : RotorId} (hz : b.extractLsb' 4 12 = 0#12)
    (h : RotorId.ofCode (b.extractLsb' 0 4).toNat = some rotor) : BitVec.ofNat 16 rotor.code = b := by
  rw [extractLsb'_eq_zero_iff (by decide)] at hz
  apply BitVec.eq_of_toNat_eq
  rw [RotorId.code_of_ofCode h]
  simp
  omega

/-- `b` of format K2 is the code of the reflector its two low bits select. -/
theorem ofNat_code_reflectorOfBits {b : BitVec 16} (hz : b.extractLsb' 2 14 = 0#14) :
    BitVec.ofNat 16 (ReflectorId.ofBits (b.getLsbD 1) (b.getLsbD 0)).code = b := by
  rw [← append_extractLsb' (m := 14) (n := 2) b, hz]
  generalize b.extractLsb' 0 2 = code
  revert code
  decide

/-- `b` of format K1 is the code of the mode its low bit selects. -/
theorem ofNat_code_modeOfBit {b : BitVec 16} (hz : b.extractLsb' 1 15 = 0#15) :
    BitVec.ofNat 16 (Mode.ofBit (b.getLsbD 0)).code = b := by
  rw [← append_extractLsb' (m := 15) (n := 1) b, hz]
  generalize b.extractLsb' 0 1 = bit
  revert bit
  decide

/-! ## The formats, one opcode at a time (R62, R63) -/

section Formats

variable {ε α : Type} {c : Prop} [Decidable c] {x y : α} {e : ε}

/-- A format that tests `c` accepts under `c` only. -/
theorem ite_eq_ok_iff : (if c then Except.ok x else .error e) = .ok y ↔ c ∧ x = y := by
  split <;> simp [*]

/-- A format that tests `c` rejects exactly without `c`. -/
theorem ite_eq_error_iff : (∃ e', (if c then Except.ok x else .error e) = .error e') ↔ ¬ c := by
  split <;> simp [*]

end Formats

theorem decodeEnc_error_iff (a : Byte) (b : BitVec 16) :
    (∃ e, decodeEnc a b = .error e) ↔ a.toNat ≠ 0 ∨ b.toNat / 2 ^ 8 ≠ 0 := by
  rw [decodeEnc, ite_eq_error_iff, ← BitVec.toNat_inj, highByte_eq_zero_iff]
  exact not_and_or

theorem decodeWire_error_iff (a : Byte) (b : BitVec 16) :
    (∃ e, decodeWire a b = .error e) ↔ b.toNat / 2 ^ 8 ≠ 0 := by
  rw [decodeWire, ite_eq_error_iff, highByte_eq_zero_iff]

theorem decodeLdrot_error_iff (a : Byte) (b : BitVec 16) :
    (∃ e, decodeLdrot a b = .error e) ↔ a.toNat / 2 ^ 2 ≠ 0 ∨ b.toNat / 2 ^ 4 ≠ 0 ∨ 10 ≤ b.toNat % 2 ^ 4 := by
  have hlow : (b.extractLsb' 0 4).toNat = b.toNat % 2 ^ 4 := by simp
  rw [← RotorId.ofCode_eq_none_iff, ← hlow, decodeLdrot]
  split
  case isTrue hz =>
    rw [aboveSlot_eq_zero_iff, extractLsb'_eq_zero_iff (by decide)] at hz
    cases RotorId.ofCode (b.extractLsb' 0 4).toNat with
    | none => exact iff_of_true ⟨_, rfl⟩ (.inr (.inr rfl))
    | some rotor => exact iff_of_false (by simp) (by simp only [reduceCtorEq, or_false]; omega)
  case isFalse hz =>
    rw [aboveSlot_eq_zero_iff, extractLsb'_eq_zero_iff (by decide)] at hz
    exact iff_of_true ⟨_, rfl⟩ (by omega)

theorem decodeSetrot_error_iff (a : Byte) (b : BitVec 16) :
    (∃ e, decodeSetrot a b = .error e) ↔ a.toNat / 2 ^ 2 ≠ 0 := by
  rw [decodeSetrot, ite_eq_error_iff, aboveSlot_eq_zero_iff]

theorem decodeSetring_error_iff (a : Byte) (b : BitVec 16) :
    (∃ e, decodeSetring a b = .error e) ↔ a.toNat / 2 ^ 2 ≠ 0 := by
  rw [decodeSetring, ite_eq_error_iff, aboveSlot_eq_zero_iff]

theorem decodeLdref_error_iff (a : Byte) (b : BitVec 16) :
    (∃ e, decodeLdref a b = .error e) ↔ a.toNat ≠ 0 ∨ b.toNat / 2 ^ 2 ≠ 0 := by
  rw [decodeLdref, ite_eq_error_iff, ← BitVec.toNat_inj, extractLsb'_eq_zero_iff (by decide)]
  exact not_and_or

theorem decodeSetmode_error_iff (a : Byte) (b : BitVec 16) :
    (∃ e, decodeSetmode a b = .error e) ↔ a.toNat ≠ 0 ∨ b.toNat / 2 ^ 1 ≠ 0 := by
  rw [decodeSetmode, ite_eq_error_iff, ← BitVec.toNat_inj, extractLsb'_eq_zero_iff (by decide)]
  exact not_and_or

theorem decodeReset_error_iff (a : Byte) (b : BitVec 16) :
    (∃ e, decodeReset a b = .error e) ↔ a.toNat ≠ 0 ∨ b.toNat ≠ 0 := by
  rw [decodeReset, ite_eq_error_iff, ← BitVec.toNat_inj, ← BitVec.toNat_inj]
  exact not_and_or

/-- What the encoder makes of an accepted command: a well-formed one, whose word has the given fields. -/
def EncodesAs (op a : Byte) (b : BitVec 16) (i : Instr) : Prop :=
  i.wellFormed = true ∧ encode i = wordOf op a b

theorem decodeEnc_encodesAs {a : Byte} {b : BitVec 16} {i : Instr} (h : decodeEnc a b = .ok i) :
    EncodesAs 0x01 a b i := by
  obtain ⟨⟨rfl, hb⟩, rfl⟩ := ite_eq_ok_iff.mp h
  exact ⟨rfl, by rw [encode, charField_lowByte hb]; rfl⟩

theorem decodeWire_encodesAs {a : Byte} {b : BitVec 16} {i : Instr} (h : decodeWire a b = .ok i) :
    EncodesAs 0x02 a b i := by
  obtain ⟨hb, rfl⟩ := ite_eq_ok_iff.mp h
  exact ⟨rfl, by rw [encode, charField_lowByte hb]⟩

theorem decodeLdrot_encodesAs {a : Byte} {b : BitVec 16} {i : Instr} (h : decodeLdrot a b = .ok i) :
    EncodesAs 0x03 a b i := by
  unfold decodeLdrot at h
  split at h
  case isTrue hz =>
    obtain ⟨ha, hb⟩ := hz
    split at h
    case h_1 rotor hr =>
      cases h
      refine ⟨ldrotOf_wellFormed _ _, ?_⟩
      rw [encode_ldrotOf, slotField_slotOf ha, ofNat_code_of_ofCode hb hr]
    case h_2 => cases h
  case isFalse => cases h

theorem decodeSetrot_encodesAs {a : Byte} {b : BitVec 16} {i : Instr} (h : decodeSetrot a b = .ok i) :
    EncodesAs 0x04 a b i := by
  obtain ⟨ha, rfl⟩ := ite_eq_ok_iff.mp h
  exact ⟨rfl, by rw [encode, slotField_slotOf ha]⟩

theorem decodeSetring_encodesAs {a : Byte} {b : BitVec 16} {i : Instr} (h : decodeSetring a b = .ok i) :
    EncodesAs 0x05 a b i := by
  obtain ⟨ha, rfl⟩ := ite_eq_ok_iff.mp h
  exact ⟨rfl, by rw [encode, slotField_slotOf ha]⟩

theorem decodeLdref_encodesAs {a : Byte} {b : BitVec 16} {i : Instr} (h : decodeLdref a b = .ok i) :
    EncodesAs 0x06 a b i := by
  obtain ⟨⟨rfl, hb⟩, rfl⟩ := ite_eq_ok_iff.mp h
  exact ⟨rfl, by rw [encode, ofNat_code_reflectorOfBits hb]; rfl⟩

theorem decodeSetmode_encodesAs {a : Byte} {b : BitVec 16} {i : Instr} (h : decodeSetmode a b = .ok i) :
    EncodesAs 0x07 a b i := by
  obtain ⟨⟨rfl, hb⟩, rfl⟩ := ite_eq_ok_iff.mp h
  exact ⟨rfl, by rw [encode, ofNat_code_modeOfBit hb]; rfl⟩

theorem decodeReset_encodesAs {a : Byte} {b : BitVec 16} {i : Instr} (h : decodeReset a b = .ok i) :
    EncodesAs 0x08 a b i := by
  obtain ⟨⟨rfl, rfl⟩, rfl⟩ := ite_eq_ok_iff.mp h
  exact ⟨rfl, rfl⟩

/-! ## The decoder (R61, R66) -/

/-- The format a word is decoded by, for each value of its opcode. -/
theorem decode_cases (w : Word) :
    (fieldOp w = 0x01 ∧ decode w = decodeEnc (fieldA w) (fieldB w)) ∨
    (fieldOp w = 0x02 ∧ decode w = decodeWire (fieldA w) (fieldB w)) ∨
    (fieldOp w = 0x03 ∧ decode w = decodeLdrot (fieldA w) (fieldB w)) ∨
    (fieldOp w = 0x04 ∧ decode w = decodeSetrot (fieldA w) (fieldB w)) ∨
    (fieldOp w = 0x05 ∧ decode w = decodeSetring (fieldA w) (fieldB w)) ∨
    (fieldOp w = 0x06 ∧ decode w = decodeLdref (fieldA w) (fieldB w)) ∨
    (fieldOp w = 0x07 ∧ decode w = decodeSetmode (fieldA w) (fieldB w)) ∨
    (fieldOp w = 0x08 ∧ decode w = decodeReset (fieldA w) (fieldB w)) ∨
    (((fieldOp w).toNat = 0 ∨ 8 < (fieldOp w).toNat) ∧ decode w = .error .unknownOpcode) := by
  unfold decode
  simp only [← BitVec.toNat_inj]
  split <;> simp_all
  omega

/-- A word that decodes is the encoding of its command. -/
theorem encode_of_decode {w : Word} {i : Instr} (h : decode w = .ok i) : i.wellFormed = true ∧ encode i = w := by
  have hfields : EncodesAs (fieldOp w) (fieldA w) (fieldB w) i := by
    rcases decode_cases w with ⟨hop, hd⟩ | ⟨hop, hd⟩ | ⟨hop, hd⟩ | ⟨hop, hd⟩ | ⟨hop, hd⟩ | ⟨hop, hd⟩ | ⟨hop, hd⟩ |
      ⟨hop, hd⟩ | ⟨-, hd⟩ <;> rw [hd] at h
    · exact hop ▸ decodeEnc_encodesAs h
    · exact hop ▸ decodeWire_encodesAs h
    · exact hop ▸ decodeLdrot_encodesAs h
    · exact hop ▸ decodeSetrot_encodesAs h
    · exact hop ▸ decodeSetring_encodesAs h
    · exact hop ▸ decodeLdref_encodesAs h
    · exact hop ▸ decodeSetmode_encodesAs h
    · exact hop ▸ decodeReset_encodesAs h
    · cases h
  obtain ⟨hwf, hword⟩ := hfields
  exact ⟨hwf, hword.trans (wordOf_fields w)⟩

/-- The reasons a word is illegal (R66), over its three fields as numbers. -/
def IllegalFields (op a b : Nat) : Prop :=
  (op = 0 ∨ 8 < op) ∨ (op = 1 ∧ (a ≠ 0 ∨ b / 2 ^ 8 ≠ 0)) ∨ (op = 2 ∧ b / 2 ^ 8 ≠ 0) ∨
    (op = 3 ∧ (a / 4 ≠ 0 ∨ b / 2 ^ 4 ≠ 0 ∨ 10 ≤ b % 2 ^ 4)) ∨ ((op = 4 ∨ op = 5) ∧ a / 4 ≠ 0) ∨
    (op = 6 ∧ (a ≠ 0 ∨ b / 4 ≠ 0)) ∨ (op = 7 ∧ (a ≠ 0 ∨ b / 2 ≠ 0)) ∨ (op = 8 ∧ (a ≠ 0 ∨ b ≠ 0))

/-- The decoder rejects a word for one of the listed reasons, and for no other. -/
theorem decode_error_iff (w : Word) :
    (∃ e, decode w = .error e) ↔
      IllegalFields (w.toNat / 2 ^ 24) (w.toNat / 2 ^ 16 % 2 ^ 8) (w.toNat % 2 ^ 16) := by
  rw [← toNat_fieldOp, ← toNat_fieldA, ← toNat_fieldB, IllegalFields]
  rcases decode_cases w with ⟨hop, hd⟩ | ⟨hop, hd⟩ | ⟨hop, hd⟩ | ⟨hop, hd⟩ | ⟨hop, hd⟩ | ⟨hop, hd⟩ | ⟨hop, hd⟩ |
    ⟨hop, hd⟩ | ⟨hop, hd⟩ <;> rw [hd]
  · rw [hop, decodeEnc_error_iff]; simp
  · rw [hop, decodeWire_error_iff]; simp
  · rw [hop, decodeLdrot_error_iff]; simp
  · rw [hop, decodeSetrot_error_iff]; simp
  · rw [hop, decodeSetring_error_iff]; simp
  · rw [hop, decodeLdref_error_iff]; simp
  · rw [hop, decodeSetmode_error_iff]; simp
  · rw [hop, decodeReset_error_iff]; simp
  · exact iff_of_true ⟨_, rfl⟩ (.inl hop)

/-- A word decodes exactly when it is not rejected. -/
theorem exists_decode_ok_iff (w : Word) : (∃ i, decode w = .ok i) ↔ ¬ ∃ e, decode w = .error e := by
  cases decode w <;> simp

/-! ## The opcode table (R61, R62) -/

/-- The word of a well-formed command satisfies a row that bears its mnemonic. -/
theorem encode_admitted (i : Instr) : Laws.EncodesInTable.Statement i := by
  cases i with
  | enc ch => exact Laws.EncodesInTable.enc ch
  | wire ch1 ch2 => exact Laws.EncodesInTable.wire ch1 ch2
  | ldrot slot rotor => exact Laws.EncodesInTable.ldrot slot rotor
  | ldrotBetaGamma slot rotor => exact Laws.EncodesInTable.ldrotBetaGamma slot rotor
  | setrot slot val => exact Laws.EncodesInTable.setrot slot val
  | setring slot val => exact Laws.EncodesInTable.setring slot val
  | ldref refl => exact Laws.EncodesInTable.ldref refl
  | setmode m => exact Laws.EncodesInTable.setmode m
  | reset => exact Laws.EncodesInTable.reset

/-- A word that decodes satisfies a row of its command's mnemonic. -/
theorem admitted_of_decode {w : Word} {i : Instr} (h : decode w = .ok i) :
    ∃ row ∈ opcodeTable, row.admits w = true ∧ row.mnemonic = i.mnemonic := by
  obtain ⟨hwf, rfl⟩ := encode_of_decode h
  obtain ⟨row, hrow, hmnemonic, hadmits⟩ := encode_admitted i hwf
  exact ⟨row, hrow, hadmits, hmnemonic⟩

theorem OpcodeRow.admits_iff (row : OpcodeRow) (w : Word) : row.admits w = true ↔ w &&& row.mask = row.pattern := by
  simp [OpcodeRow.admits]

/-- A word a row admits agrees with the row's pattern on every run of bits that its mask covers. -/
theorem OpcodeRow.admits_bits {row : OpcodeRow} {w : Word} (h : row.admits w = true) (k l : Nat)
    (hmask : row.mask.extractLsb' k l = BitVec.allOnes l) :
    w.toNat / 2 ^ k % 2 ^ l = row.pattern.toNat / 2 ^ k % 2 ^ l := by
  have hbits : w.extractLsb' k l = row.pattern.extractLsb' k l := by
    rw [← (row.admits_iff w).mp h, BitVec.extractLsb'_and, hmask, BitVec.and_allOnes]
  simpa [BitVec.extractLsb'_toNat, Nat.shiftRight_eq_div_pow] using congrArg BitVec.toNat hbits

/-- A word some row admits is illegal for none of the listed reasons: the masks cover the opcode and every
must-be-zero bit, and the patterns of LDROT bound its rotor code. -/
theorem not_illegalFields_of_admits {row : OpcodeRow} (hrow : row ∈ opcodeTable) {w : Word}
    (h : row.admits w = true) :
    ¬ IllegalFields (w.toNat / 2 ^ 24) (w.toNat / 2 ^ 16 % 2 ^ 8) (w.toNat % 2 ^ 16) := by
  simp only [opcodeTable, List.mem_cons, List.not_mem_nil, or_false] at hrow
  unfold IllegalFields
  rcases hrow with rfl | rfl | rfl | rfl | rfl | rfl | rfl | rfl | rfl
  · have hhigh : w.toNat / 2 ^ 8 % 2 ^ 24 = 0x010000 := OpcodeRow.admits_bits h 8 24 (by decide)
    omega
  · have hop : w.toNat / 2 ^ 24 % 2 ^ 8 = 0x02 := OpcodeRow.admits_bits h 24 8 (by decide)
    have hb : w.toNat / 2 ^ 8 % 2 ^ 8 = 0 := OpcodeRow.admits_bits h 8 8 (by decide)
    omega
  · have hhigh : w.toNat / 2 ^ 18 % 2 ^ 14 = 0x00C0 := OpcodeRow.admits_bits h 18 14 (by decide)
    have hb : w.toNat / 2 ^ 3 % 2 ^ 13 = 0 := OpcodeRow.admits_bits h 3 13 (by decide)
    omega
  · have hhigh : w.toNat / 2 ^ 18 % 2 ^ 14 = 0x00C0 := OpcodeRow.admits_bits h 18 14 (by decide)
    have hb : w.toNat / 2 ^ 1 % 2 ^ 15 = 4 := OpcodeRow.admits_bits h 1 15 (by decide)
    omega
  · have hhigh : w.toNat / 2 ^ 18 % 2 ^ 14 = 0x0100 := OpcodeRow.admits_bits h 18 14 (by decide)
    omega
  · have hhigh : w.toNat / 2 ^ 18 % 2 ^ 14 = 0x0140 := OpcodeRow.admits_bits h 18 14 (by decide)
    omega
  · have hhigh : w.toNat / 2 ^ 2 % 2 ^ 30 = 0x01800000 := OpcodeRow.admits_bits h 2 30 (by decide)
    omega
  · have hhigh : w.toNat / 2 ^ 1 % 2 ^ 31 = 0x03800000 := OpcodeRow.admits_bits h 1 31 (by decide)
    omega
  · have hword : w.toNat / 2 ^ 0 % 2 ^ 32 = 0x08000000 := OpcodeRow.admits_bits h 0 32 (by decide)
    omega

/-- A word decodes exactly when some row admits it. -/
theorem exists_decode_ok_iff_admitted (w : Word) :
    (∃ i, decode w = .ok i) ↔ ∃ row ∈ opcodeTable, row.admits w = true := by
  constructor
  · rintro ⟨i, hi⟩
    obtain ⟨row, hrow, hadmits, -⟩ := admitted_of_decode hi
    exact ⟨row, hrow, hadmits⟩
  · rintro ⟨row, hrow, hadmits⟩
    rw [exists_decode_ok_iff, decode_error_iff]
    exact not_illegalFields_of_admits hrow hadmits

/-- Two rows that agree on the bits both of their masks cover are one row. -/
theorem opcodeTable_disjoint : ∀ row ∈ opcodeTable, ∀ row' ∈ opcodeTable,
    row.pattern &&& row'.mask = row'.pattern &&& row.mask → row = row' := by
  decide

/-- No word satisfies two rows. -/
theorem row_unique {row row' : OpcodeRow} (hrow : row ∈ opcodeTable) (hrow' : row' ∈ opcodeTable) {w : Word}
    (h : row.admits w = true) (h' : row'.admits w = true) : row = row' := by
  refine opcodeTable_disjoint row hrow row' hrow' ?_
  rw [← (row.admits_iff w).mp h, ← (row'.admits_iff w).mp h', BitVec.and_assoc, BitVec.and_assoc,
    BitVec.and_comm row.mask]

end Sys2Proof

namespace Sys2Proof.Machine

/-- Settles O5: a decoded word is the encoding of its command, which a row of its mnemonic admits; conversely the masks
leave no reason to reject. -/
theorem decodeAcceptsExactlyTheOpcodeTable : Obligations.DecodeAcceptsExactlyTheOpcodeTable :=
  ⟨fun _ _ => admitted_of_decode, fun w => (exists_decode_ok_iff_admitted w).mpr,
    fun _ _ hrow _ hrow' => row_unique hrow hrow', fun _ _ s h => execWord_ok h s⟩

/-! ## Illegal words (R66) -/

/-- Settles O7: the reasons are those of the decoder's formats, and no command reads the response registers. -/
theorem illegalWordChangesNoRegister : Obligations.IllegalWordChangesNoRegister := by
  refine ⟨fun w => ?_, decode_error_iff, fun w e s h => ⟨execWord_error h s, fun w' => ?_⟩⟩
  · rw [← not_iff_not, ← exists_decode_ok_iff, exists_decode_ok_iff_admitted]
    simp
  · cases hd : decode w' with
    | ok i => rw [execWord_ok hd, execWord_ok hd, exec_ignores_response]
    | error e' => rw [execWord_error hd, execWord_error hd]; rfl

/-! ## Pseudo-instructions (R71) -/

/-- ROTOR has an assembly exactly when its three commands have, and is then one after the other. -/
theorem assembleLine_rotor (slot : Nat) (rotor : RotorOperand) (rot ring : ValueOperand) :
    assembleLine (.rotor slot rotor rot ring) = do
      let load ← assembleLine (.ldrot slot rotor)
      let turn ← assembleLine (.setrot slot rot)
      let shift ← assembleLine (.setring slot ring)
      return load ++ turn ++ shift := by
  simp only [assembleLine]
  cases assembleSlot slot with
  | none => rfl
  | some k =>
    cases assembleRotor rotor with
    | none => rfl
    | some id =>
      cases assembleValue rot with
      | none => rfl
      | some r => cases assembleValue ring <;> rfl

/-- UNPLUG reads its letter once, WIRE twice. -/
theorem assembleLine_unplug (ch : CharOperand) : assembleLine (.unplug ch) = assembleLine (.wire ch ch) := by
  simp only [assembleLine]
  cases assembleChar ch <;> rfl

/-- Settles O50, one pseudo-instruction after the other. -/
theorem pseudoInstructionsExpand : Obligations.PseudoInstructionsExpand :=
  ⟨assembleLine_rotor, assembleLine_unplug, fun _ => rfl⟩

end Sys2Proof.Machine


/-! SUPPORT. The family '40_wheel_math.md': characters and letter indices (R86). -/

namespace Sys2Proof.Machine

/-- The letters are the codes of the two ranges. -/
theorem isLetter_iff (ch : Byte) : isLetter ch = true ↔
    (0x41 ≤ ch.toNat ∧ ch.toNat ≤ 0x5A) ∨ (0x61 ≤ ch.toNat ∧ ch.toNat ≤ 0x7A) := by
  rw [isLetter, Bool.or_eq_true, isUpper_iff, isLower_iff]

/-- An upper-case letter's index is its distance from `'A'`. -/
theorem letterIndex_upper {ch : Byte} (h : isUpper ch = true) :
    ∃ i : Letter, letterIndex ch = some i ∧ i.val = ch.toNat - 0x41 :=
  ⟨_, dif_pos h, rfl⟩

/-- A lower-case letter's index is its distance from `'a'`: the two ranges are disjoint. -/
theorem letterIndex_lower {ch : Byte} (h : isLower ch = true) :
    ∃ i : Letter, letterIndex ch = some i ∧ i.val = ch.toNat - 0x61 := by
  have hnotUpper : ¬ isUpper ch = true := by
    rw [isLower_iff] at h
    rw [isUpper_iff]
    omega
  exact ⟨_, (dif_neg hnotUpper).trans (dif_pos h), rfl⟩

/-- `chr(i)` is `'A' + i`, which fits a byte. -/
theorem letterChar_toNat (i : Letter) : (letterChar i).toNat = 0x41 + i.val :=
  Nat.mod_eq_of_lt (by omega)

/-- Settles O15: each range with its index, then the character of an index; the examples evaluate. -/
theorem charactersFollowTheCodeRanges : Obligations.CharactersFollowTheCodeRanges :=
  ⟨isLetter_iff, fun ch hlow hhigh => letterIndex_upper ((isUpper_iff ch).mpr ⟨hlow, hhigh⟩),
    fun ch hlow hhigh => letterIndex_lower ((isLower_iff ch).mpr ⟨hlow, hhigh⟩),
    fun ch => (letterIndex_eq_none ch).mpr, letterChar_toNat, by decide⟩

end Sys2Proof.Machine


/-! SUPPORT. The family '41_rack_stepping.md': what a keystroke never moves and never reads (R94) and the source's
stepping examples (R97). -/

namespace Sys2Proof.Machine

/-! ## Slots 2 and 3 (R94) -/

/-- A keystroke advances slot 2 exactly with the middle rotor on its notch, whatever the tables and
`BOTH_NOTCH_ADVANCE` are. -/
theorem stepRack_rotation_two (cfg : Config) (s : State) :
    (stepRack cfg s).rotation[2] =
      if s.rotation[1] ∈ cfg.notch s.rotorId[1] then s.rotation[2] + 1 else s.rotation[2] := by
  simp [stepRack_rotation, enigmaRackStepper, onNotch, nextLetter_eq]

/-- The rotors of slots 2 and 3 do not influence a keystroke. -/
theorem stepRack_rotation_setRotorId {slot : Slot} (h : 2 ≤ slot) (rotor : RotorId) (cfg : Config) (s : State) :
    (stepRack cfg (setRotorId slot rotor s)).rotation = (stepRack cfg s).rotation := by
  have hslot : 2 ≤ slot.val := h
  have h0 : (setRotorId slot rotor s).rotorId[0] = s.rotorId[0] := Vector.getElem_set_ne slot.isLt _ (by omega)
  have h1 : (setRotorId slot rotor s).rotorId[1] = s.rotorId[1] := Vector.getElem_set_ne slot.isLt _ (by omega)
  rw [stepRack_rotation, stepRack_rotation, h0, h1, setRotorId_rotation]

/-- Beta and Gamma fit in slot 3 only. -/
theorem eq_three_of_rotorFitsSlot {slot : Slot} {rotor : RotorId} (hfits : rotorFitsSlot slot rotor = true)
    (hrotor : rotor = .beta ∨ rotor = .gamma) : slot = 3 := by
  by_contra hslot
  rcases hrotor with rfl | rfl <;> simp [rotorFitsSlot, hslot, RotorId.isBetaGamma] at hfits

/-- Settles O20: slot 3 is not written, slot 2 advances on the middle notch only, and only the rotors of slots 0 and 1
are read; the rest is T4 and the compatibility rule. -/
theorem slotThreeAndTheSlowNotchNeverMatter : Obligations.SlotThreeAndTheSlowNotchNeverMatter := by
  intro cfg hcfg s
  have hreads (slot : Slot) (h : 2 ≤ slot) (rotor : RotorId) := stepRack_rotation_setRotorId h rotor cfg s
  refine ⟨stepRack_rotation_three cfg s, fun hmoved => ?_,
    fun rotor => ⟨hreads 2 (by decide) rotor, hreads 3 (by decide) rotor⟩,
    ⟨hcfg.notch_beta, hcfg.notch_gamma⟩, fun hfit slot => eq_three_of_rotorFitsSlot (hfit slot)⟩
  by_contra hoff
  exact hmoved ((stepRack_rotation_two cfg s).trans (if_neg hoff))

/-! ## Keystrokes of the engine (R97) -/

/-- ENC of a letter leaves the rotations of one step of the rack. -/
theorem exec_enc_rotation {ch : Byte} (h : isLetter ch = true) (s : State) :
    ∃ t, exec (.enc ch) s = .next t ∧ t.rotation = (stepRack engineConfig s).rotation := by
  obtain ⟨i, hi⟩ := letterIndex_of_isLetter h
  exact ⟨_, exec_enc_letter hi s, rfl⟩

/-- Settles O21: both examples are instances of the engine's stepping equation. -/
theorem sourceSteppingExamples : Obligations.SourceSteppingExamples := by
  refine ⟨fun s ch hch hfast hmiddle h0 h1 => ?_, fun s ch hch hmiddle hfast => ?_⟩
  · obtain ⟨t, ht, hrot⟩ := exec_enc_rotation hch s
    rw [stepRack_engine_rotation, h0, h1, if_neg hmiddle, if_pos hfast] at hrot
    refine ⟨t, ht, ?_, ?_, ?_⟩ <;> rw [hrot]
    · rfl
    · rfl
    · exact add_zero _
  · obtain ⟨t, ht, hrot⟩ := exec_enc_rotation hch s
    rw [stepRack_engine_rotation, if_pos hmiddle, if_neg hfast, add_zero] at hrot
    refine ⟨t, ht, ?_, fun hfour => ?_, ?_, ?_⟩ <;> rw [hrot]
    · rfl
    · exact congrArg (· + 1) hfour
    · rfl
    · rfl

end Sys2Proof.Machine


/-! SUPPORT. The family '42_encode.md': the word of ENC, the signal path stage by stage (R100, R101), no letter answers
itself (R106), non-letters in a text (R105). -/

namespace Sys2Proof.Machine

/-! ## The word of ENC (R60, R62) -/

/-- ENC as a number: its opcode above its character. -/
theorem toNat_encode_enc (ch : Byte) : (encode (.enc ch)).toNat = 0x01000000 + ch.toNat := by
  rw [encode, toNat_wordOf, toNat_charField]
  rfl

/-- The word of ENC decodes to ENC of the same character. -/
theorem decode_encode_enc (ch : Byte) : decode (encode (.enc ch)) = .ok (.enc ch) := by
  have hfields : decode (encode (.enc ch)) = decodeEnc 0 (charField ch) := by
    simp [decode, encode]
  rw [hfields, decodeEnc, if_pos ⟨rfl, highByte_charField ch⟩, lowByte_charField]

/-- Executing the word of ENC is executing ENC. -/
theorem execWord_encode_enc (ch : Byte) (s : State) : execWord (encode (.enc ch)) s = exec (.enc ch) s :=
  execWord_ok (decode_encode_enc ch) s

/-! ## Case (R86) -/

/-- The two cases of a letter have one index: each range counts from its own first code. -/
theorem letterIndex_lowerCase {upperCh lowerCh : Byte} (hupper : isUpper upperCh = true)
    (hlower : lowerCh.toNat = upperCh.toNat + 0x20) :
    ∃ i, letterIndex upperCh = some i ∧ letterIndex lowerCh = some i := by
  have hrange := (isUpper_iff upperCh).mp hupper
  obtain ⟨i, hi, hival⟩ := letterIndex_upper hupper
  obtain ⟨j, hj, hjval⟩ := letterIndex_lower ((isLower_iff lowerCh).mpr (by omega))
  have hij : j = i := Fin.ext (by omega)
  exact ⟨i, hi, hij ▸ hj⟩

/-! ## The signal path (R100, R101) -/

/-- The path of an M3 engine: three rotors, the reflector, and the three rotors in the opposite order. -/
theorem path_m3 {s : State} (hm : s.mode = .m3) (cfg : Config) (i : Letter) :
    path cfg s i =
      s.plug[applyInverse cfg s.rotorId[0] s.rotation[0] s.ring[0] <|
        applyInverse cfg s.rotorId[1] s.rotation[1] s.ring[1] <|
        applyInverse cfg s.rotorId[2] s.rotation[2] s.ring[2] <|
        reflect cfg s.reflectorId <|
        applyForward cfg s.rotorId[2] s.rotation[2] s.ring[2] <|
        applyForward cfg s.rotorId[1] s.rotation[1] s.ring[1] <|
        applyForward cfg s.rotorId[0] s.rotation[0] s.ring[0] s.plug[i]] := by
  rw [path, hm]
  rfl

/-- The path of an M4 engine: slot 3 stands next to the reflector. -/
theorem path_m4 {s : State} (hm : s.mode = .m4) (cfg : Config) (i : Letter) :
    path cfg s i =
      s.plug[applyInverse cfg s.rotorId[0] s.rotation[0] s.ring[0] <|
        applyInverse cfg s.rotorId[1] s.rotation[1] s.ring[1] <|
        applyInverse cfg s.rotorId[2] s.rotation[2] s.ring[2] <|
        applyInverse cfg s.rotorId[3] s.rotation[3] s.ring[3] <|
        reflect cfg s.reflectorId <|
        applyForward cfg s.rotorId[3] s.rotation[3] s.ring[3] <|
        applyForward cfg s.rotorId[2] s.rotation[2] s.ring[2] <|
        applyForward cfg s.rotorId[1] s.rotation[1] s.ring[1] <|
        applyForward cfg s.rotorId[0] s.rotation[0] s.ring[0] s.plug[i]] := by
  rw [path, hm]
  rfl

/-! ## No letter answers itself (R106) -/

/-- One rotor undoes its inverse: the offsets cancel around the two table reads. -/
theorem rotorRingSettingLogic_forward_inverse {cfg : Config} (hcfg : cfg.WF) (id : RotorId) (rot ring i : Letter) :
    rotorRingSettingLogic cfg .forward id rot ring (rotorRingSettingLogic cfg .inverse id rot ring i) = i := by
  simp only [rotorRingSettingLogic_eq, add_sub_cancel_right, sub_add_cancel, rotorRead_forward_inverse hcfg]

/-- No rotor leaves the signal as it is. -/
theorem throughRotors_nil (cfg : Config) (dir : Direction) (rotorId : Vector RotorId 4)
    (rotation ring : Vector Letter 4) (i : Letter) : throughRotors cfg dir rotorId rotation ring [] i = i := rfl

/-- The way in undoes the way out, which meets the same rotors in the opposite order. -/
theorem throughRotors_forward_inverse {cfg : Config} (hcfg : cfg.WF) (rotorId : Vector RotorId 4)
    (rotation ring : Vector Letter 4) (slots : List Slot) (i : Letter) :
    throughRotors cfg .forward rotorId rotation ring slots
      (throughRotors cfg .inverse rotorId rotation ring slots.reverse i) = i := by
  induction slots generalizing i with
  | nil => rfl
  | cons slot slots ih =>
    rw [List.reverse_cons, throughRotors_append, throughRotors_cons, throughRotors_cons, throughRotors_nil,
      rotorRingSettingLogic_forward_inverse hcfg]
    exact ih i

/-- A map that moves every letter, met between a way in and the way out it undoes and between the two passes of an
involution, leaves no letter fixed: on the way in the returning signal would read as the map's input and as its
output. -/
theorem conjugate_ne {plug wayIn moves wayOut : Letter → Letter} (hplug : Function.Involutive plug)
    (hundo : Function.LeftInverse wayIn wayOut) (hmoves : ∀ x, moves x ≠ x) (i : Letter) :
    plug (wayOut (moves (wayIn (plug i)))) ≠ i := by
  intro hfixed
  have hreturn : wayOut (moves (wayIn (plug i))) = plug i := hplug.eq_iff.mp hfixed
  exact hmoves (wayIn (plug i)) ((hundo _).symm.trans (congrArg wayIn hreturn))

/-- No letter answers itself when the reflectors move every letter. -/
theorem path_ne {cfg : Config} (hcfg : cfg.WF) (hmoves : ReflectorsMoveEveryLetter cfg) {s : State}
    (hplug : PlugInvolution s.plug) (i : Letter) : path cfg s i ≠ i :=
  conjugate_ne ((plugInvolution_iff s.plug).mp hplug)
    (throughRotors_forward_inverse hcfg s.rotorId s.rotation s.ring (activeSlots s.mode)) (hmoves s.reflectorId) i

/-! ## ENC (R100) -/

/-- Settles O14: ENC is one keystroke and the path at the stepped state, written out for each mode; no letter answers
itself because the reflectors move every letter. -/
theorem encEnciphersThroughTheSteppedPath : Obligations.EncEnciphersThroughTheSteppedPath := by
  refine ⟨toNat_encode_enc, fun s ch hch => exec_enc_nonletter hch s, fun s ch i hi => ?_,
    fun s upperCh lowerCh hupper hlower => ?_, fun s ch i hplug hi => ?_, rfl, by decide⟩
  · cases hm : s.mode with
    | m3 =>
      rw [exec_enc_letter hi, path_m3 (s := stepRack engineConfig s) hm, stepRack_eq, stepRack_engine_rotation, hm]
      rfl
    | m4 =>
      rw [exec_enc_letter hi, path_m4 (s := stepRack engineConfig s) hm, stepRack_eq, stepRack_engine_rotation, hm]
      rfl
  · obtain ⟨i, hi, hi'⟩ := letterIndex_lowerCase hupper hlower
    exact ⟨_, exec_enc_letter hi s, exec_enc_letter hi' s⟩
  · refine ⟨_, exec_enc_letter hi s, fun hself => ?_⟩
    exact path_ne engineConfig_wf reflTable_moves (s := stepRack engineConfig s) hplug i (letterChar_injective hself)

/-! ## Texts with non-letters (R105) -/

/-- ENC of a letter does the same from states with the same registers. -/
theorem exec_enc_letter_sameRegisters {s s' : State} (h : SameRegisters s s') {ch : Byte} (hch : isLetter ch = true) :
    ∃ t t', exec (.enc ch) s = .next t ∧ exec (.enc ch) s' = .next t' ∧ SameRegisters t t' ∧
      response t' = response t := by
  obtain ⟨i, hi⟩ := letterIndex_of_isLetter hch
  have hstep := sameRegisters_stepRack h engineConfig
  refine ⟨_, _, exec_enc_letter hi s, exec_enc_letter hi s', sameRegisters_respond hstep .., ?_⟩
  rw [sameRegisters_path hstep]
  rfl

/-- The first character of a text, then the rest of it. -/
theorem runWords_encWords_cons {ch : Byte} {s t : State} (h : exec (.enc ch) s = .next t) {text : List Byte}
    {u : State} {rs : List Response} (hrest : runWords (encWords text) t = .next (u, rs)) :
    runWords (encWords (ch :: text)) s = .next (u, response t :: rs) :=
  runWords_cons ((execWord_encode_enc ch s).trans h) hrest

/-- The two texts side by side: a letter moves both engines alike, a non-letter leaves the registers of the one that
is given it. -/
theorem runWords_encWords_filter_isLetter (text : List Byte) {s s' : State} (h : SameRegisters s s') :
    ∃ t rs t' rs', runWords (encWords text) s = .next (t, rs) ∧
      runWords (encWords (text.filter isLetter)) s' = .next (t', rs') ∧ SameRegisters t t' ∧
      ((text.zip rs).filter fun p => isLetter p.1).map Prod.snd = rs' := by
  induction text generalizing s s' with
  | nil => exact ⟨s, [], s', [], rfl, rfl, h, rfl⟩
  | cons ch text ih =>
    cases hch : isLetter ch with
    | true =>
      obtain ⟨u, u', hu, hu', hregs, hresp⟩ := exec_enc_letter_sameRegisters h hch
      obtain ⟨t, rs, t', rs', hrun, hrun', hfinal, hanswers⟩ := ih hregs
      refine ⟨t, _, t', response u' :: rs', runWords_encWords_cons hu hrun, ?_, hfinal, ?_⟩
      · rw [List.filter_cons_of_pos hch]
        exact runWords_encWords_cons hu' hrun'
      · simp [hch, hanswers, hresp]
    | false =>
      obtain ⟨t, rs, t', rs', hrun, hrun', hfinal, hanswers⟩ := ih (s := respond ch false s) (s' := s') h
      refine ⟨t, _, t', rs', runWords_encWords_cons (exec_enc_nonletter hch s) hrun, ?_, hfinal, ?_⟩
      · rwa [List.filter_cons_of_neg (by simp [hch])]
      · simp [hch, hanswers]

/-- Settles O17: the run of the text and the run of its letters, started in one state. -/
theorem nonLettersPassThroughWithoutStepping : Obligations.NonLettersPassThroughWithoutStepping :=
  ⟨fun s _ hch => exec_enc_nonletter hch s,
    fun s text => runWords_encWords_filter_isLetter text (sameRegisters_refl s)⟩

end Sys2Proof.Machine


/-! SUPPORT. The family '43_plugboard.md': the word of WIRE, its assignments in their order (R110), the source's
plugboard example (R114). -/

namespace Sys2Proof.Machine

/-! ## The word of WIRE (R60, R62) -/

/-- WIRE as a number: its opcode above its two characters. -/
theorem toNat_encode_wire (ch1 ch2 : Byte) :
    (encode (.wire ch1 ch2)).toNat = 0x02000000 + ch1.toNat * 2 ^ 16 + ch2.toNat := by
  rw [encode, toNat_wordOf, toNat_charField]
  rfl

/-! ## What WIRE does (R110) -/

/-- WIRE of two letters edits the plugboard and answers `(0x00, 0)`. -/
theorem exec_wire_letters {ch1 ch2 : Byte} {a b : Letter} (ha : letterIndex ch1 = some a)
    (hb : letterIndex ch2 = some b) (s : State) :
    exec (.wire ch1 ch2) s = .next (respond 0x00 false (setPlug (wirePlug a b s.plug) s)) :=
  congrArg Host.Outcome.next (wireLetters_letters ha hb s)

/-- WIRE with a non-letter writes nothing and answers `(0x00, 0)`. -/
theorem exec_wire_nonletter {ch1 ch2 : Byte} (h : isLetter ch1 = false ∨ isLetter ch2 = false) (s : State) :
    exec (.wire ch1 ch2) s = .next (respond 0x00 false s) :=
  congrArg Host.Outcome.next (wireLetters_nonletter h s)

/-- One assignment `plug[k] <- x`, on a plugboard given by its entries. -/
theorem set_ofFn_eq_ofFn_update (p : Letter → Letter) (k x : Letter) :
    (Vector.ofFn p).set k.val x k.isLt = Vector.ofFn (Function.update p k x) := by
  refine vector_ext_fin fun i => ?_
  simp only [Fin.getElem_fin, Vector.getElem_set, Vector.getElem_ofFn, Function.update_apply, Fin.ext_iff, eq_comm]

/-- A removal is the rule's two assignments, in their order. -/
theorem removePairing_ofFn (a : Letter) (p : Letter → Letter) :
    removePairing a (Vector.ofFn p) = Vector.ofFn (Function.update (Function.update p (p a) (p a)) a a) := by
  have hpartner : plugLookup (Vector.ofFn p) a = p a := by
    rw [plugLookup, Fin.getElem_fin, Vector.getElem_ofFn]
  simp only [removePairing, hpartner, set_ofFn_eq_ofFn_update]

/-- The install is the rule's last two assignments. -/
theorem installPairing_ofFn (a b : Letter) (p : Letter → Letter) :
    installPairing a b (Vector.ofFn p) = Vector.ofFn (Function.update (Function.update p a b) b a) := by
  rw [installPairing, set_ofFn_eq_ofFn_update, set_ofFn_eq_ofFn_update]

/-- WIRE is the six assignments of the rule, in their order. -/
theorem wirePlug_ofFn (a b : Letter) (p : Letter → Letter) :
    let freeA := Function.update (Function.update p (p a) (p a)) a a
    let freeB := Function.update (Function.update freeA (freeA b) (freeA b)) b b
    wirePlug a b (Vector.ofFn p) = Vector.ofFn (Function.update (Function.update freeB a b) b a) := by
  rw [wirePlug, removePairing_ofFn, removePairing_ofFn, installPairing_ofFn]

/-- The identity plugboard maps every letter to itself. -/
theorem reset_plug_getElem (i : Letter) : State.reset.plug[i] = i := by
  revert i; decide

/-- On the identity there is no pairing to remove. -/
theorem removePairing_reset (a : Letter) : removePairing a State.reset.plug = State.reset.plug := by
  refine vector_ext_fin fun i => ?_
  rw [removePairing_getElem, reset_plug_getElem, reset_plug_getElem]
  split <;> simp_all

/-- On the identity WIRE is the install alone. -/
theorem wirePlug_reset (a b : Letter) : wirePlug a b State.reset.plug = installPairing a b State.reset.plug := by
  rw [wirePlug, removePairing_reset, removePairing_reset]

/-- On the identity WIRE pairs its two letters and touches no other. -/
theorem wirePlug_reset_getElem (a b i : Letter) :
    (wirePlug a b State.reset.plug)[i] = if i = b then a else if i = a then b else i := by
  rw [wirePlug_reset, installPairing_getElem, reset_plug_getElem]

/-- Settles O39: each removal and the install are two assignments of the rule; on the identity nothing else is paired. -/
theorem wireRemovesThenInstalls : Obligations.WireRemovesThenInstalls := by
  refine ⟨toNat_encode_wire, fun s ch1 ch2 h => exec_wire_nonletter h s, fun s ch1 ch2 a b ha hb => ?_,
    _, exec_wire_letters (a := 0) (b := 16) rfl rfl _, ?_, ?_, fun i hA hQ => ?_⟩
  · have hplug : s.plug = Vector.ofFn fun i : Letter => s.plug[i] := Vector.ofFn_getElem.symm
    have hedit := congrArg (wirePlug a b) hplug
    rw [wirePlug_ofFn] at hedit
    rw [exec_wire_letters ha hb, hedit, respond, setPlug]
  · exact wirePlug_reset_getElem 0 16 0
  · exact wirePlug_reset_getElem 0 16 16
  · exact (wirePlug_reset_getElem 0 16 i).trans ((if_neg hQ).trans (if_neg hA))

/-! ## The source's plugboard example (R114) -/

/-- Removing the only pairing of a plugboard leaves the identity. -/
theorem removePairing_wirePlug_reset (a b : Letter) :
    removePairing a (wirePlug a b State.reset.plug) = State.reset.plug := by
  refine vector_ext_fin fun i => ?_
  have hpartner : (wirePlug a b State.reset.plug)[a] = b := by
    rw [wirePlug_reset_getElem, if_pos rfl]
    split <;> simp_all
  rw [removePairing_getElem, hpartner, wirePlug_reset_getElem, reset_plug_getElem]
  split <;> simp_all

/-- A letter wired anew frees its only former partner: the last of its pairings is left. -/
theorem wirePlug_wirePlug_reset (a b c : Letter) :
    wirePlug a c (wirePlug a b State.reset.plug) = wirePlug a c State.reset.plug := by
  rw [wirePlug, removePairing_wirePlug_reset, removePairing_reset, wirePlug_reset]

/-- Wiring a letter of the identity to itself does nothing. -/
theorem wirePlug_self_reset (a : Letter) : wirePlug a a State.reset.plug = State.reset.plug := by
  refine vector_ext_fin fun i => ?_
  rw [wirePlug_reset_getElem, reset_plug_getElem]
  split <;> simp_all

/-- Settles O43: after each WIRE of `A` only its last pairing is left, and the pairing of `A` with itself is none. -/
theorem sourcePlugboardExample : Obligations.SourcePlugboardExample := by
  have hAZ : wirePlug 0 25 (wirePlug 0 16 State.reset.plug) = wirePlug 0 25 State.reset.plug :=
    wirePlug_wirePlug_reset 0 16 25
  have hAA : wirePlug 0 0 (wirePlug 0 25 State.reset.plug) = State.reset.plug :=
    (wirePlug_wirePlug_reset 0 25 0).trans (wirePlug_self_reset 0)
  refine ⟨_, _, _, exec_wire_letters (a := 0) (b := 16) rfl rfl _, exec_wire_letters (a := 0) (b := 25) rfl rfl _,
    exec_wire_letters (a := 0) (b := 0) rfl rfl _, ?_⟩
  simp only [respond_plug, setPlug_plug, hAZ, hAA]
  refine ⟨⟨?_, ?_⟩, ⟨?_, ?_, ?_⟩, reset_plug_getElem 0, reset_plug_getElem 25, reset_plug_getElem⟩
  · exact wirePlug_reset_getElem 0 16 0
  · exact wirePlug_reset_getElem 0 16 16
  · exact wirePlug_reset_getElem 0 25 0
  · exact wirePlug_reset_getElem 0 25 25
  · exact wirePlug_reset_getElem 0 25 16

end Sys2Proof.Machine


/-! SUPPORT. The family '44_configuration.md': the words of the configuration commands, what each writes (R120 to R130),
and which of it an M3 engine's texts can show (R122, R124). -/

namespace Sys2Proof.Machine

/-! ## The words of the slot commands (R60, R62) -/

/-- A word of format SK or SV as a number: its opcode, its slot, its low half. -/
theorem toNat_wordOf_slotField (op : Byte) (slot : Slot) (b : BitVec 16) :
    (wordOf op (slotField slot) b).toNat = op.toNat * 2 ^ 24 + slot.val * 2 ^ 16 + b.toNat := by
  rw [toNat_wordOf, toNat_slotField]

theorem toNat_encode_setrot (slot : Slot) (val : Offset) :
    (encode (.setrot slot val)).toNat = 0x04000000 + slot.val * 2 ^ 16 + val.toNat :=
  toNat_wordOf_slotField 0x04 slot val

theorem toNat_encode_setring (slot : Slot) (val : Offset) :
    (encode (.setring slot val)).toNat = 0x05000000 + slot.val * 2 ^ 16 + val.toNat :=
  toNat_wordOf_slotField 0x05 slot val

/-- A rotor code fits its 16-bit field. -/
theorem toNat_ofNat_rotorCode (rotor : RotorId) : (BitVec.ofNat 16 rotor.code).toNat = rotor.code := by
  cases rotor <;> rfl

theorem toNat_encode_ldrotOf (slot : Slot) (rotor : RotorId) :
    (encode (ldrotOf slot rotor)).toNat = 0x03000000 + slot.val * 2 ^ 16 + rotor.code := by
  rw [encode_ldrotOf, toNat_wordOf_slotField, toNat_ofNat_rotorCode]
  rfl

/-! ## The stored offset (R64, R85) -/

/-- The stored letter is the floored residue of the signed operand. -/
theorem offsetLetter_val (val : Offset) :
    ((offsetLetter val).val : Int) = val.toInt - 26 * Int.fdiv val.toInt 26 := by
  rw [offsetLetter, fmod26_val, Int.fdiv_eq_ediv_of_nonneg _ (by decide), Int.emod_def]

/-- A write to one slot leaves the others. -/
theorem getElem_set_slot_ne {α : Type} {slot k : Slot} (h : k ≠ slot) (v : Vector α 4) (x : α) :
    (v.set slot.val x slot.isLt)[k] = v[k] :=
  Vector.getElem_set_ne slot.isLt k.isLt fun hval => h (Fin.ext hval.symm)

/-! ## Slot 3 and the texts of an M3 engine (R21, R122, R124) -/

theorem sameButSlot3_setRotation_three (r : Letter) (s : State) : SameButSlot3 s (setRotation 3 r s) :=
  ⟨rfl, rfl, rfl, fun _ hslot => ⟨rfl, getElem_set_slot_ne hslot s.rotation r, rfl⟩⟩

theorem sameButSlot3_setRing_three (r : Letter) (s : State) : SameButSlot3 s (setRing 3 r s) :=
  ⟨rfl, rfl, rfl, fun _ hslot => ⟨rfl, rfl, getElem_set_slot_ne hslot s.ring r⟩⟩

/-- States with the same registers agree in slot 3 too. -/
theorem sameButSlot3_of_sameRegisters {s t : State} (h : SameRegisters s t) : SameButSlot3 s t := by
  obtain ⟨hm, hid, hrot, hring, hrefl, hplug⟩ := h
  exact ⟨hm, hrefl, hplug, fun slot _ => by simp only [hid, hrot, hring, and_self]⟩

/-- ENC keeps the mode. -/
theorem exec_enc_mode {ch : Byte} {s t : State} (h : exec (.enc ch) s = .next t) : t.mode = s.mode := by
  cases hl : isLetter ch with
  | true =>
    obtain ⟨i, hi⟩ := letterIndex_of_isLetter hl
    cases (exec_enc_letter hi s).symm.trans h
    rfl
  | false =>
    cases (exec_enc_nonletter hl s).symm.trans h
    rfl

/-- M3 engines that differ in slot 3 only answer every text alike. -/
theorem runWords_encWords_sameButSlot3 (text : List Byte) {s s' : State} (hm3 : s.mode = .m3)
    (h : SameButSlot3 s s') : ∃ u v answers,
      runWords (encWords text) s = .next (u, answers) ∧ runWords (encWords text) s' = .next (v, answers) := by
  induction text generalizing s s' with
  | nil => exact ⟨s, s', [], rfl, rfl⟩
  | cons ch text ih =>
    obtain ⟨t, t', ht, ht', hresp, hsame, -⟩ := exec_enc_sameButSlot3 hm3 h ch
    obtain ⟨u, v, answers, hu, hv⟩ := ih ((exec_enc_mode ht).trans hm3) hsame
    exact ⟨u, v, _, runWords_encWords_cons ht hu, hresp ▸ runWords_encWords_cons ht' hv⟩

/-- A command that changes nothing but slot 3 of an M3 engine changes the answer to no later text. -/
theorem exec_slotThree_keeps_answers {i : Instr} {s t : State} (hexec : exec i s = .next t) (hm3 : s.mode = .m3)
    (h : SameButSlot3 s t) (text : List Byte) : ∃ t u v answers, exec i s = .next t ∧
      runWords (encWords text) s = .next (u, answers) ∧ runWords (encWords text) t = .next (v, answers) := by
  obtain ⟨u, v, answers, hs, ht⟩ := runWords_encWords_sameButSlot3 text hm3 h
  exact ⟨t, u, v, answers, hexec, hs, ht⟩

/-! ## SETROT and SETRING (R122, R124) -/

/-- SETROT stores its residue and answers `(0x00, 0)`. -/
theorem exec_setrot (slot : Slot) (val : Offset) (s : State) :
    exec (.setrot slot val) s = .next (respond 0x00 false (setRotation slot (offsetLetter val) s)) := rfl

/-- SETRING stores its residue and answers `(0x00, 0)`. -/
theorem exec_setring (slot : Slot) (val : Offset) (s : State) :
    exec (.setring slot val) s = .next (respond 0x00 false (setRing slot (offsetLetter val) s)) := rfl

/-- The residues of the corner operands of R85 A6 and of the two examples, 30 and 27. -/
theorem offsetLetter_corners : ∀ p ∈ ([(0x001A, 0), (0xFFFF, 25), (0x8000, 18), (0x7FFF, 7), (0x001E, 4),
    (0x001B, 1)] : List (Offset × Letter)), offsetLetter p.1 = p.2 :=
  List.forall_iff_forall_mem.mp (by decide)

/-- Settles O31: the stored letter is the residue, read back from its slot; no M3 text reads slot 3. -/
theorem setrotStoresTheFlooredResidue : Obligations.SetrotStoresTheFlooredResidue := by
  refine ⟨toNat_encode_setrot, fun s slot val => ⟨offsetLetter val, offsetLetter_val val, exec_setrot slot val s⟩,
    fun s slot p hp => ⟨_, exec_setrot slot p.1 s, ?_⟩, fun s val text hm3 => ?_⟩
  · have hcorner : offsetLetter p.1 = p.2 := offsetLetter_corners p (List.Sublist.subset (by decide) hp)
    exact (Vector.getElem_set_self slot.isLt).trans hcorner
  · exact exec_slotThree_keeps_answers (exec_setrot 3 val s) hm3 (sameButSlot3_setRotation_three _ s) text

/-- LDROT keeps the ring settings. -/
@[simp] theorem loadRotor_ring (slot : Slot) (rotor : RotorId) (s : State) :
    (loadRotor slot rotor s).ring = s.ring := by
  unfold loadRotor
  split <;> rfl

/-- No ring setting influences a keystroke. -/
theorem stepRack_rotation_setRing (cfg : Config) (slot : Slot) (r : Letter) (s : State) :
    (stepRack cfg (setRing slot r s)).rotation = (stepRack cfg s).rotation := rfl

/-- Settles O32: the stored letter is the residue, read back from its slot; no M3 text reads slot 3, LDROT keeps every
ring setting, and stepping reads none. -/
theorem setringStoresTheFlooredResidue : Obligations.SetringStoresTheFlooredResidue := by
  refine ⟨toNat_encode_setring, fun s slot val => ⟨offsetLetter val, offsetLetter_val val, exec_setring slot val s⟩,
    fun s slot p hp => ⟨_, exec_setring slot p.1 s, ?_⟩, fun s val text hm3 => ?_,
    fun s slot val rotor => ⟨_, _, exec_setring slot val s, exec_ldrotOf slot rotor _, loadRotor_ring slot rotor _,
      stepRack_rotation_setRing engineConfig slot (offsetLetter val) s⟩⟩
  · have hcorner : offsetLetter p.1 = p.2 := offsetLetter_corners p (List.Sublist.subset (by decide) hp)
    exact (Vector.getElem_set_self slot.isLt).trans hcorner
  · exact exec_slotThree_keeps_answers (exec_setring 3 val s) hm3 (sameButSlot3_setRing_three _ s) text

/-! ## LDROT (R120) -/

/-- Compatibility by rotor codes. -/
theorem rotorFitsSlot_iff (slot : Slot) (rotor : RotorId) : rotorFitsSlot slot rotor = true ↔
    (slot = 3 ∧ (rotor.code = 8 ∨ rotor.code = 9)) ∨ ((slot = 0 ∨ slot = 1 ∨ slot = 2) ∧ rotor.code ≤ 7) := by
  revert slot
  cases rotor <;> decide

/-- LDROT writes the rotor identities and the response registers. -/
theorem loadRotor_eq (slot : Slot) (rotor : RotorId) (s : State) :
    loadRotor slot rotor s = respond 0x00 false
      { s with rotorId := if rotorFitsSlot slot rotor then s.rotorId.set slot.val rotor else s.rotorId } := by
  unfold loadRotor
  split <;> rfl

/-- Settles O34: both rows run one operation, whose test is the rule's. -/
theorem ldrotWritesOnlyACompatibleRotor : Obligations.LdrotWritesOnlyACompatibleRotor := by
  refine ⟨toNat_encode_ldrotOf, ?_, _, _, exec_ldrotOf 0 .v State.reset, rfl, exec_ldrotOf 0 .beta _, rfl⟩
  intro s slot rotor loaded
  have htest : (if rotorFitsSlot slot rotor then s.rotorId.set slot.val rotor else s.rotorId) = loaded :=
    if_congr (rotorFitsSlot_iff slot rotor) rfl rfl
  have hload := loadRotor_eq slot rotor s
  rw [htest] at hload
  exact ⟨congrArg Host.Outcome.next hload, congrArg Host.Outcome.next hload⟩

/-! ## LDREF (R126) -/

theorem toNat_encode_ldref (refl : ReflectorId) : (encode (.ldref refl)).toNat = 0x06000000 + refl.code := by
  cases refl <;> rfl

/-- The thin bit is bit 1 of the code, and the mode bit is the mode's code. -/
theorem reflectorFitsMode_iff (mode : Mode) (refl : ReflectorId) :
    reflectorFitsMode mode refl = true ↔ refl.code / 2 = mode.code := by
  cases mode <;> cases refl <;> decide

/-- LDREF writes the reflector and the response registers. -/
theorem exec_ldref (refl : ReflectorId) (s : State) :
    exec (.ldref refl) s = .next (respond 0x00 false
      { s with reflectorId := if reflectorFitsMode s.mode refl then refl else s.reflectorId }) := by
  simp only [exec, execLdref]
  split <;> rfl

/-- Settles O35: the test of the thin bit against the mode, on codes. -/
theorem ldrefLoadsOnlyAMatchingReflector : Obligations.LdrefLoadsOnlyAMatchingReflector := by
  refine ⟨toNat_encode_ldref, fun s refl => ?_, _, _, exec_ldref .c State.reset, rfl, exec_ldref .bThin _, rfl⟩
  rw [exec_ldref, if_congr (reflectorFitsMode_iff s.mode refl) rfl rfl]
  rfl

/-! ## SETMODE (R128) -/

theorem toNat_encode_setmode (m : Mode) : (encode (.setmode m)).toNat = 0x07000000 + m.code := by
  cases m <;> rfl

/-- SETMODE writes the mode, the reflector and the response registers. -/
theorem exec_setmode (m : Mode) (s : State) :
    exec (.setmode m) s =
      .next (respond 0x00 false (setReflector (reflectorForMode m s.reflectorId) (setMode m s))) := rfl

/-- The reflector for a mode has the mode's thin bit and keeps bit 0. -/
theorem reflectorForMode_code (m : Mode) (refl : ReflectorId) :
    (reflectorForMode m refl).code = 2 * m.code + refl.code % 2 := by
  cases m <;> cases refl <;> rfl

/-- A reflector that fits its mode is the one for that mode. -/
theorem reflectorForMode_of_fits {m : Mode} {refl : ReflectorId} (h : reflectorFitsMode m refl = true) :
    reflectorForMode m refl = refl := by
  revert h
  cases m <;> cases refl <;> decide

/-- Settles O36: the code of the repaired reflector; where the reflector fits there is nothing to repair. -/
theorem setmodeRepairsTheReflector : Obligations.SetmodeRepairsTheReflector := by
  refine ⟨toNat_encode_setmode, fun s m => ⟨_, reflectorForMode_code m s.reflectorId, exec_setmode m s⟩,
    fun s hfits => ?_, _, exec_setmode .m4 State.reset, rfl, rfl, rfl, rfl, rfl⟩
  rw [exec_setmode, reflectorForMode_of_fits hfits]
  rfl

/-! ## RESET (R130) -/

/-- RESET loads the start-up values and answers `(0x00, 0)`. -/
theorem exec_reset (s : State) : exec .reset s = .next (respond 0x00 false (loadResetValues s)) := rfl

/-- The start-up plugboard is the identity. -/
theorem reset_plug_eq_ofFn : State.reset.plug = Vector.ofFn fun i => i := rfl

/-- RESET leaves nothing of a state's registers. -/
theorem sameRegisters_reset_loadResetValues (s : State) :
    SameRegisters State.reset (respond 0x00 false (loadResetValues s)) := ⟨rfl, rfl, rfl, rfl, rfl, rfl⟩

/-- The text `AAAAA` from start-up, to its end state and answers. -/
theorem runWords_encWords_reset :
    runWords (encWords [0x41, 0x41, 0x41, 0x41, 0x41]) State.reset =
      .next (respond 0x4F false { State.reset with rotation := #v[5, 0, 0, 0] },
        [⟨0x42, false⟩, ⟨0x44, false⟩, ⟨0x5A, false⟩, ⟨0x47, false⟩, ⟨0x4F, false⟩]) := rfl

/-- Settles O13: RESET loads the values the pin loads; the texts of an M3 engine depend on the registers alone, so the
example is the run from start-up. -/
theorem resetCommandReturnsToStartUp : Obligations.ResetCommandReturnsToStartUp := by
  refine ⟨by decide, fun s => ?_, fun s v w => ?_, fun s => ?_⟩
  · rw [exec_reset, ← reset_plug_eq_ofFn]
    rfl
  · exact ⟨_, _, (step_eq_clockEdge rfl).trans (clockEdge_rst v w _), exec_reset s, rfl, rfl, rfl, rfl, rfl, rfl⟩
  · obtain ⟨u, v, answers, hu, hv⟩ :=
      runWords_encWords_sameButSlot3 [0x41, 0x41, 0x41, 0x41, 0x41] rfl
        (sameButSlot3_of_sameRegisters (sameRegisters_reset_loadResetValues s))
    cases runWords_encWords_reset.symm.trans hu
    have hreset : execWord 0x08000000 s = .next (respond 0x00 false (loadResetValues s)) :=
      execWord_ok (i := .reset) (by decide) s
    exact ⟨v, runWords_cons hreset hv⟩

end Sys2Proof.Machine

/-!
No step raises an exception (60_exceptions.md R140).
-/

namespace Sys2Proof.Machine

/-- Settles O10: every word loads a response; a fault has no constructor to be answered with. -/
theorem everyWordGivesANextStateAndAResponse : Obligations.EveryWordGivesANextStateAndAResponse := by
  refine ⟨fun w s => ?_, fun s f => nomatch f⟩
  obtain ⟨c, ill, u, hu⟩ := execWord_responds w s
  exact ⟨_, hu, respond_respValid c ill u⟩

end Sys2Proof.Machine

/-! SUPPORT. The round trip between commands and words (30_encoding.md R61 to R64), the formulas of the mnemonic form
(R70), the worked words (R75, R76). -/

namespace Sys2Proof

/-! ## A format accepts the fields the encoder makes (R62, R63) -/

theorem decodeWire_charField (ch1 ch2 : Byte) : decodeWire ch1 (charField ch2) = .ok (.wire ch1 ch2) := by
  rw [decodeWire, if_pos (highByte_charField ch2), lowByte_charField]

/-- The four low bits of `b` hold every rotor code, and nothing is left above them. -/
theorem rotorCode_fields (rotor : RotorId) :
    (BitVec.ofNat 16 rotor.code).extractLsb' 4 12 = 0#12 ∧
      ((BitVec.ofNat 16 rotor.code).extractLsb' 0 4).toNat = rotor.code := by
  cases rotor <;> decide

theorem decodeLdrot_slotField (slot : Slot) (rotor : RotorId) :
    decodeLdrot (slotField slot) (BitVec.ofNat 16 rotor.code) = .ok (ldrotOf slot rotor) := by
  obtain ⟨hhigh, hlow⟩ := rotorCode_fields rotor
  simp only [decodeLdrot, hlow, RotorId.ofCode_code, slotOf_slotField]
  exact if_pos ⟨aboveSlot_slotField slot, hhigh⟩

theorem decodeSetrot_slotField (slot : Slot) (val : Offset) :
    decodeSetrot (slotField slot) val = .ok (.setrot slot val) := by
  rw [decodeSetrot, if_pos (aboveSlot_slotField slot), slotOf_slotField]

theorem decodeSetring_slotField (slot : Slot) (val : Offset) :
    decodeSetring (slotField slot) val = .ok (.setring slot val) := by
  rw [decodeSetring, if_pos (aboveSlot_slotField slot), slotOf_slotField]

theorem decodeLdref_code (refl : ReflectorId) : decodeLdref 0#8 (BitVec.ofNat 16 refl.code) = .ok (.ldref refl) := by
  cases refl <;> rfl

theorem decodeSetmode_code (m : Mode) : decodeSetmode 0#8 (BitVec.ofNat 16 m.code) = .ok (.setmode m) := by
  cases m <;> rfl

/-- A well-formed LDROT stands in the constructor of its rotor's row. -/
theorem ldrotOf_of_not_betaGamma {slot : Slot} {rotor : RotorId} (h : (Instr.ldrot slot rotor).wellFormed = true) :
    ldrotOf slot rotor = .ldrot slot rotor := by
  refine if_neg fun hbeta => ?_
  simp [Instr.wellFormed, hbeta] at h

theorem ldrotOf_of_betaGamma {slot : Slot} {rotor : RotorId}
    (h : (Instr.ldrotBetaGamma slot rotor).wellFormed = true) : ldrotOf slot rotor = .ldrotBetaGamma slot rotor :=
  if_pos h

/-! ## The round trip (R61) -/

/-- The word of a well-formed command decodes to it: its opcode selects the format that made its fields. -/
theorem decode_encode {i : Instr} (h : i.wellFormed = true) : decode (encode i) = .ok i := by
  cases i with
  | enc ch => exact Machine.decode_encode_enc ch
  | wire ch1 ch2 => simp [encode, decode, decodeWire_charField]
  | ldrot slot rotor => simp [encode, decode, decodeLdrot_slotField, ldrotOf_of_not_betaGamma h]
  | ldrotBetaGamma slot rotor => simp [encode, decode, decodeLdrot_slotField, ldrotOf_of_betaGamma h]
  | setrot slot val => simp [encode, decode, decodeSetrot_slotField]
  | setring slot val => simp [encode, decode, decodeSetring_slotField]
  | ldref refl => simp [encode, decode, decodeLdref_code]
  | setmode m => simp [encode, decode, decodeSetmode_code]
  | reset => rfl

/-- A word that is the encoding of a well-formed command decodes to it. -/
theorem decode_of_encode_eq {i : Instr} {w : Word} (h : i.wellFormed = true) (hw : encode i = w) :
    decode w = .ok i :=
  hw ▸ decode_encode h

/-- A 32-bit word of the opcode table is read as the word itself. -/
theorem decodeTableWord_toNat (w : Word) : decodeTableWord 32 w.toNat = (decode w).toOption := by
  have hword : BitVec.ofNat 32 (w.toNat % 2 ^ 32) = w := by
    rw [Nat.mod_eq_of_lt w.isLt, BitVec.ofNat_toNat, BitVec.setWidth_eq]
  rw [decodeTableWord, if_pos le_rfl, hword]
  cases decode w <;> rfl

end Sys2Proof

namespace Sys2Proof.Machine

/-- Settles O3: each format accepts the fields the encoder makes for it. -/
theorem encodeThenDecodeReturnsTheCommand : Obligations.EncodeThenDecodeReturnsTheCommand := by
  intro i hwf
  have hdecode := decode_encode hwf
  exact ⟨hdecode, by rw [decodeTableWord_toNat, hdecode]; rfl⟩

/-- Settles O4: each format accepts no fields but those of the encoder. -/
theorem decodedWordIsTheEncodingOfItsCommand : Obligations.DecodedWordIsTheEncodingOfItsCommand :=
  fun _ _ => encode_of_decode

/-- Settles O6, one command after the other. -/
theorem encodingFormulas : Obligations.EncodingFormulas :=
  ⟨toNat_encode_enc, toNat_encode_wire, toNat_encode_ldrotOf, toNat_encode_setrot, toNat_encode_setring,
    toNat_encode_ldref, toNat_encode_setmode, rfl⟩

/-- Settles O1: the assembler evaluates to the twelve words, and each word is the encoding of its command. -/
theorem workedEncodingsAssembleAndDecode : Obligations.WorkedEncodingsAssembleAndDecode :=
  ⟨by decide, decode_of_encode_eq rfl rfl, decode_of_encode_eq rfl rfl, decode_of_encode_eq rfl rfl,
    decode_of_encode_eq rfl rfl, decode_of_encode_eq rfl rfl, decode_of_encode_eq rfl rfl, decode_of_encode_eq rfl rfl,
    decode_of_encode_eq rfl rfl, decode_of_encode_eq rfl rfl, decode_of_encode_eq rfl rfl, decode_of_encode_eq rfl rfl,
    decode_of_encode_eq rfl rfl⟩

/-- The worked illegal words of R76 decode to nothing. -/
theorem workedIllegalWords_rejected : ∀ w ∈ ([ 0x00000000, 0x09000000, 0xFFFFFFFF, 0x01000141, 0x01010041, 0x02410151,
    0x0300000A, 0x0300000F, 0x03040002, 0x03000012, 0x04040000, 0x06000004, 0x07000002, 0x08000001 ] : List Word),
    (decode w).toOption = none :=
  List.forall_iff_forall_mem.mp (by decide)

/-- Settles O2: an illegal word answers, whatever the reason it is illegal for. -/
theorem workedIllegalWordsAreRejected : Obligations.WorkedIllegalWordsAreRejected := by
  intro w hw
  have hnone := workedIllegalWords_rejected w hw
  refine ⟨(decodeTableWord_toNat w).trans hnone, fun s => ?_⟩
  cases hd : decode w with
  | ok i => rw [hd] at hnone; cases hnone
  | error e => exact execWord_error hd s

end Sys2Proof.Machine

/-! SUPPORT. WIRE on an involution: its closed form (R111), and what follows from it (R112, R113). -/

namespace Sys2Proof.Machine

/-! ## Removing and installing a pairing of an involution -/

/-- In an involution partners map to each other. -/
theorem plug_eq_iff {plug : Vector Letter 26} (h : PlugInvolution plug) {i j : Letter} : plug[i] = j ↔ i = plug[j] :=
  ((plugInvolution_iff plug).mp h).eq_iff

/-- On an involution a removal frees a letter and its partner, and touches no other letter. -/
theorem removePairing_getElem_of_involution {plug : Vector Letter 26} (h : PlugInvolution plug) (a i : Letter) :
    (removePairing a plug)[i] = if i = a ∨ plug[i] = a then i else plug[i] := by
  simp only [removePairing_getElem, plug_eq_iff h]
  split <;> simp_all

/-- A removal keeps an involution: a letter freed is its own partner, and no other letter's partner is freed. -/
theorem removePairing_involution {plug : Vector Letter 26} (h : PlugInvolution plug) (a : Letter) :
    PlugInvolution (removePairing a plug) := by
  intro i
  have hi := removePairing_getElem_of_involution h a i
  by_cases hfreed : i = a ∨ plug[i] = a
  · rw [if_pos hfreed] at hi
    simp only [hi]
  · rw [if_neg hfreed] at hi
    obtain ⟨hne, hpne⟩ := not_or.mp hfreed
    have hback : plug[plug[i]] = i := h i
    simp only [hi]
    rw [removePairing_getElem_of_involution h, hback, if_neg (not_or.mpr ⟨hpne, hne⟩)]

/-- WIRE on an involution: the two letters are paired, their former partners freed (R111). -/
theorem wirePlug_getElem_of_involution {plug : Vector Letter 26} (h : PlugInvolution plug) (a b i : Letter) :
    (wirePlug a b plug)[i] =
      if i = a then b else if i = b then a else if plug[i] = a ∨ plug[i] = b then i else plug[i] := by
  simp only [wirePlug, installPairing_getElem, removePairing_getElem_of_involution (removePairing_involution h a),
    removePairing_getElem_of_involution h a i]
  generalize plug[i] = partner
  rcases eq_or_ne i b with rfl | hb
  · split <;> simp_all
  · rcases eq_or_ne partner a with rfl | hpa <;> simp_all

/-- WIRE keeps an involution, case by case of its closed form (R112). -/
theorem wirePlug_involution {plug : Vector Letter 26} (h : PlugInvolution plug) (a b : Letter) :
    PlugInvolution (wirePlug a b plug) := by
  intro i
  have hi := wirePlug_getElem_of_involution h a b i
  have hback : plug[plug[i]] = i := h i
  by_cases ha : i = a
  · rw [if_pos ha] at hi
    simp only [hi]
    rw [wirePlug_getElem_of_involution h, if_pos rfl]
    split <;> simp_all
  · by_cases hb : i = b
    · rw [if_neg ha, if_pos hb] at hi
      simp only [hi]
      rw [wirePlug_getElem_of_involution h, if_pos rfl, hb]
    · rw [if_neg ha, if_neg hb] at hi
      by_cases hp : plug[i] = a ∨ plug[i] = b
      · rw [if_pos hp] at hi
        simp only [hi]
      · rw [if_neg hp] at hi
        obtain ⟨hpa, hpb⟩ := not_or.mp hp
        simp only [hi]
        rw [wirePlug_getElem_of_involution h, if_neg hpa, if_neg hpb, hback, if_neg (not_or.mpr ⟨ha, hb⟩)]

/-- The closed form does not distinguish the two letters (R113). -/
theorem wirePlug_comm {plug : Vector Letter 26} (h : PlugInvolution plug) (a b : Letter) :
    wirePlug a b plug = wirePlug b a plug := by
  refine vector_ext_fin fun i => ?_
  simp only [wirePlug_getElem_of_involution h, or_comm (a := plug[i] = a)]
  rcases eq_or_ne i a with rfl | ha
  · split <;> simp_all
  · simp only [if_neg ha]

/-! ## WIRE of any two characters -/

/-- Either both characters are letters or one of them is none. -/
theorem letters_or_nonletter (ch1 ch2 : Byte) :
    (∃ a b, letterIndex ch1 = some a ∧ letterIndex ch2 = some b) ∨ isLetter ch1 = false ∨ isLetter ch2 = false := by
  by_cases h : isLetter ch1 = false ∨ isLetter ch2 = false
  · exact .inr h
  · obtain ⟨h1, h2⟩ := not_or.mp h
    obtain ⟨a, ha⟩ := letterIndex_of_isLetter (eq_true_of_ne_false h1)
    obtain ⟨b, hb⟩ := letterIndex_of_isLetter (eq_true_of_ne_false h2)
    exact .inl ⟨a, b, ha, hb⟩

/-- Settles O40: the closed form, read off the state after WIRE. -/
theorem wireOnAnInvolutionInClosedForm : Obligations.WireOnAnInvolutionInClosedForm :=
  fun s _ _ a b hplug ha hb => ⟨_, exec_wire_letters ha hb s, wirePlug_getElem_of_involution hplug a b⟩

/-- Settles O41: the edit keeps an involution, and WIRE of a non-letter writes nothing. -/
theorem wireKeepsThePlugboardAnInvolution : Obligations.WireKeepsThePlugboardAnInvolution := by
  intro s ch1 ch2 hplug
  obtain ⟨a, b, ha, hb⟩ | hnon := letters_or_nonletter ch1 ch2
  · exact ⟨_, exec_wire_letters ha hb s, wirePlug_involution hplug a b⟩
  · exact ⟨_, exec_wire_nonletter hnon s, hplug⟩

/-- Settles O42: the closed form is symmetric, and WIRE of a non-letter writes nothing in either order. -/
theorem wireIsSymmetric : Obligations.WireIsSymmetric := by
  intro s ch1 ch2 hplug
  obtain ⟨a, b, ha, hb⟩ | hnon := letters_or_nonletter ch1 ch2
  · exact ⟨_, exec_wire_letters ha hb s, by rw [exec_wire_letters hb ha, wirePlug_comm hplug]⟩
  · exact ⟨_, exec_wire_nonletter hnon s, exec_wire_nonletter hnon.symm s⟩

end Sys2Proof.Machine

/-! SUPPORT. Runs of legal commands (00_scope.md R8), and the plugboards that sequences of WIREs reach (R113). -/

namespace Sys2Proof.Machine

/-! ## Runs of commands -/

/-- What a run of one word and more is made of. -/
theorem runWords_cons_next {w : Word} {ws : List Word} {s t : State} {rs : List Response}
    (h : runWords (w :: ws) s = .next (t, rs)) : ∃ u rest, execWord w s = .next u ∧
      runWords ws u = .next (t, rest) ∧ rs = response u :: rest := by
  obtain ⟨c, ill, v, hv⟩ := execWord_responds w s
  simp only [runWords, hv] at h
  cases hrest : runWords ws (respond c ill v) with
  | next p =>
    simp only [hrest] at h
    cases h
    exact ⟨_, p.2, hv, hrest, rfl⟩
  | fault f => exact nomatch f
  | refused r => simp [hrest] at h

/-- A run of words after a run of words. -/
theorem runWords_append {ws ws' : List Word} {s t u : State} {rs rs' : List Response}
    (h : runWords ws s = .next (t, rs)) (h' : runWords ws' t = .next (u, rs')) :
    runWords (ws ++ ws') s = .next (u, rs ++ rs') := by
  induction ws generalizing s rs with
  | nil => cases h; exact h'
  | cons w ws ih =>
    obtain ⟨v, rest, hv, hrest, rfl⟩ := runWords_cons_next h
    exact runWords_cons hv (ih hrest)

/-- The words of the commands run from `s` to `t`, and none of them is illegal. -/
def RunsTo (commands : List Instr) (s t : State) : Prop :=
  ∃ rs, runWords (commands.map encode) s = .next (t, rs) ∧ CleanRun rs

theorem RunsTo.nil (s : State) : RunsTo [] s s := ⟨[], rfl, nofun⟩

/-- A legal command clears the illegal flag. -/
theorem exec_respIllegal {i : Instr} {s t : State} (h : exec i s = .next t) : t.respIllegal = false := by
  obtain ⟨c, u, hu⟩ := exec_responds i s
  cases hu.symm.trans h
  rfl

theorem RunsTo.cons {i : Instr} {commands : List Instr} {s t u : State} (hwf : i.wellFormed = true)
    (hexec : exec i s = .next t) (h : RunsTo commands t u) : RunsTo (i :: commands) s u := by
  obtain ⟨rs, hrun, hclean⟩ := h
  have hword : execWord (encode i) s = .next t := (execWord_ok (decode_encode hwf) s).trans hexec
  exact ⟨_, runWords_cons hword hrun, List.forall_mem_cons.mpr ⟨exec_respIllegal hexec, hclean⟩⟩

theorem RunsTo.append {commands commands' : List Instr} {s t u : State} (h : RunsTo commands s t)
    (h' : RunsTo commands' t u) : RunsTo (commands ++ commands') s u := by
  obtain ⟨rs, hrun, hclean⟩ := h
  obtain ⟨rs', hrun', hclean'⟩ := h'
  exact ⟨_, List.map_append ▸ runWords_append hrun hrun', List.forall_mem_append.mpr ⟨hclean, hclean'⟩⟩

/-! ## Sequences of WIREs -/

/-- WIRE of each pair of letters, one after the other. -/
def wireCommands (pairs : List (Letter × Letter)) : List Instr :=
  pairs.map fun p => .wire (letterChar p.1) (letterChar p.2)

/-- The plugboard they leave. -/
def wireAll : List (Letter × Letter) → Vector Letter 26 → Vector Letter 26
  | [], plug => plug
  | p :: pairs, plug => wireAll pairs (wirePlug p.1 p.2 plug)

theorem wireAll_append (pairs pairs' : List (Letter × Letter)) (plug : Vector Letter 26) :
    wireAll (pairs ++ pairs') plug = wireAll pairs' (wireAll pairs plug) := by
  induction pairs generalizing plug with
  | nil => rfl
  | cons p pairs ih => exact ih _

/-- A sequence of WIREs edits the plugboard and no other register. -/
theorem runsTo_wireCommands (pairs : List (Letter × Letter)) (s : State) :
    ∃ t, RunsTo (wireCommands pairs) s t ∧ SameRegisters (setPlug (wireAll pairs s.plug) s) t := by
  induction pairs generalizing s with
  | nil => exact ⟨s, .nil s, sameRegisters_refl s⟩
  | cons p pairs ih =>
    have hwire := exec_wire_letters (letterIndex_letterChar p.1) (letterIndex_letterChar p.2) s
    obtain ⟨t, hrun, hregs⟩ := ih (respond 0x00 false (setPlug (wirePlug p.1 p.2 s.plug) s))
    exact ⟨t, .cons rfl hwire hrun, hregs⟩

/-! ## Every involution is reached (R113) -/

/-- WIRE of a letter with itself frees it and the letter it mapped to, on any plugboard. -/
theorem wirePlug_self_getElem (a i : Letter) (plug : Vector Letter 26) :
    (wirePlug a a plug)[i] = if i = a ∨ i = plug[a] then i else plug[i] := by
  simp only [wirePlug, installPairing_getElem, removePairing_getElem, if_true]
  split <;> simp_all

/-- WIREs of letters with themselves free them all, and every letter that was free stays so. -/
theorem wireAll_self_getElem (letters : List Letter) {plug : Vector Letter 26} {i : Letter}
    (h : plug[i] = i ∨ i ∈ letters) : (wireAll (letters.map fun a => (a, a)) plug)[i] = i := by
  induction letters generalizing plug with
  | nil => exact h.resolve_right List.not_mem_nil
  | cons a letters ih =>
    refine ih ?_
    rw [wirePlug_self_getElem]
    rcases h with hfree | hmem
    · exact .inl (by split <;> simp [hfree])
    · exact (List.mem_cons.mp hmem).imp (fun ha => if_pos (.inl ha)) id

/-- A plugboard on the way to `target`: each letter is free or has its partner already. -/
def Towards (target plug : Vector Letter 26) : Prop :=
  PlugInvolution plug ∧ ∀ k : Letter, plug[k] = k ∨ plug[k] = target[k]

/-- On the way to an involution, WIRE of a letter with its partner settles these two and moves no other letter. -/
theorem wirePlug_partner_getElem {target plug : Vector Letter 26} (htarget : PlugInvolution target)
    (h : Towards target plug) (i k : Letter) :
    (wirePlug i target[i] plug)[k] = if k = i ∨ k = target[i] then target[k] else plug[k] := by
  obtain ⟨hinv, hfree⟩ := h
  rw [wirePlug_getElem_of_involution hinv]
  rcases eq_or_ne k i with rfl | hi
  · rw [if_pos rfl, if_pos (.inl rfl)]
  · rcases eq_or_ne k target[i] with rfl | hpi
    · rw [if_neg hi, if_pos rfl, if_pos (.inr rfl)]
      exact (htarget i).symm
    · have hkept : ¬ (plug[k] = i ∨ plug[k] = target[i]) := by
        rcases hfree k with hk | hk <;> rw [hk]
        · exact not_or.mpr ⟨hi, hpi⟩
        · exact not_or.mpr ⟨fun e => hpi ((plug_eq_iff htarget).mp e),
            fun e => hi (((plug_eq_iff htarget).mp e).trans (htarget i))⟩
      rw [if_neg hi, if_neg hpi, if_neg hkept, if_neg (not_or.mpr ⟨hi, hpi⟩)]

theorem Towards.wirePlug_partner {target plug : Vector Letter 26} (htarget : PlugInvolution target)
    (h : Towards target plug) (i : Letter) : Towards target (wirePlug i target[i] plug) := by
  refine ⟨wirePlug_involution h.1 _ _, fun k => ?_⟩
  rw [wirePlug_partner_getElem htarget h]
  split
  · exact .inr rfl
  · exact h.2 k

/-- WIREs of letters with their partners in `target` settle these letters, and keep the others settled. -/
theorem wireAll_partners_getElem {target : Vector Letter 26} (htarget : PlugInvolution target) (letters : List Letter)
    {plug : Vector Letter 26} (h : Towards target plug) {k : Letter} (hk : plug[k] = target[k] ∨ k ∈ letters) :
    (wireAll (letters.map fun i => (i, target[i])) plug)[k] = target[k] := by
  induction letters generalizing plug with
  | nil => exact hk.resolve_right List.not_mem_nil
  | cons i letters ih =>
    refine ih (h.wirePlug_partner htarget i) ?_
    rw [wirePlug_partner_getElem htarget h]
    rcases hk with hsettled | hmem
    · exact .inl (by split <;> simp [hsettled])
    · exact (List.mem_cons.mp hmem).imp (fun hki => if_pos (.inl hki)) id

/-- The identity is on the way to every plugboard. -/
theorem towards_of_identity {plug : Vector Letter 26} (h : ∀ k : Letter, plug[k] = k) (target : Vector Letter 26) :
    Towards target plug :=
  ⟨fun k => (congrArg (plugLookup plug) (h k)).trans (h k), fun k => .inl (h k)⟩

/-- From the identity, WIREs of the letters that `target` pairs reach it; more letters do no harm. -/
theorem wireAll_partners_of_identity {target plug : Vector Letter 26} (htarget : PlugInvolution target)
    (hplug : ∀ k : Letter, plug[k] = k) {letters : List Letter}
    (hletters : ∀ k : Letter, target[k] ≠ k → k ∈ letters) :
    wireAll (letters.map fun i => (i, target[i])) plug = target := by
  refine vector_ext_fin fun k => wireAll_partners_getElem htarget letters (towards_of_identity hplug target) ?_
  by_cases hk : target[k] = k
  · exact .inl ((hplug k).trans hk.symm)
  · exact .inr (hletters k hk)

/-- From any plugboard, an involution or not, WIREs reach every involution: each letter is wired to itself, which leaves
the identity, and then to its partner. -/
theorem exists_wireAll_eq {target : Vector Letter 26} (htarget : PlugInvolution target) (plug : Vector Letter 26) :
    ∃ pairs, wireAll pairs plug = target := by
  refine ⟨(List.finRange 26).map (fun a => (a, a)) ++ (List.finRange 26).map fun a => (a, target[a]), ?_⟩
  rw [wireAll_append]
  exact wireAll_partners_of_identity htarget
    (fun k => wireAll_self_getElem (List.finRange 26) (.inr (List.mem_finRange k))) fun k _ => List.mem_finRange k

/-- Settles O44: the WIREs that reach the target edit no other register. -/
theorem everyInvolutionIsReachableByWires : Obligations.EveryInvolutionIsReachableByWires := by
  intro s target htarget
  obtain ⟨pairs, hpairs⟩ := exists_wireAll_eq htarget s.plug
  obtain ⟨t, ⟨rs, hrun, -⟩, hm, hid, hrot, hring, hrefl, hplug⟩ := runsTo_wireCommands pairs s
  refine ⟨pairs.map fun p => (letterChar p.1, letterChar p.2), t, rs, ?_, hplug.trans hpairs, hm, hid, hrot, hring,
    hrefl⟩
  rw [wireCommands, List.map_map] at hrun
  rw [List.map_map]
  exact hrun

end Sys2Proof.Machine

/-! SUPPORT. The invariants of R20, command by command, word by word, edge by edge; when an edge is refused (R147, R160,
R166); the words presented edge by edge (R8, R26, R170). -/

namespace Sys2Proof.Machine

/-! ## What every command leaves to the environment -/

/-- No command writes the model's own two fields: with their own values put in, the state is itself. -/
theorem execWord_keeps_environment {w : Word} {s t : State} (h : execWord w s = .next t) :
    t.hasBeenReset = s.hasBeenReset ∧ t.inputs = s.inputs := by
  have hself := h.symm.trans (execWord_environment h s.hasBeenReset s.inputs)
  injection hself with hself
  exact ⟨(congrArg State.hasBeenReset hself :), (congrArg State.inputs hself :)⟩

/-- What the host drives later does not matter to a word. -/
theorem execWord_inputs {w : Word} {s t : State} (h : execWord w s = .next t) (inputs : List PortInput) :
    execWord w { s with inputs := inputs } = .next { t with inputs := inputs } :=
  (execWord_environment h s.hasBeenReset inputs).trans (by rw [← (execWord_keeps_environment h).1])

/-! ## The invariants, command by command (R20) -/

theorem inv_reset : Inv State.reset := by
  decide

/-- Settles O46: the reset state is a closed value, and INV1 holds by the type of letters. -/
theorem resetStateSatisfiesTheInvariants : Obligations.ResetStateSatisfiesTheInvariants :=
  ⟨inv_reset, fun _ => inv_reset, fun _ => ⟨Fin.isLt _, Fin.isLt _⟩⟩

/-- LDROT loads only a rotor that fits its slot. -/
theorem slotsFit_loadRotor {s : State} (h : SlotsFit s) (slot : Slot) (rotor : RotorId) :
    SlotsFit (loadRotor slot rotor s) := by
  intro k
  rw [loadRotor_eq]
  by_cases hfits : rotorFitsSlot slot rotor = true
  · simp only [respond_rotorId, if_pos hfits]
    rcases eq_or_ne k slot with rfl | hk
    · rwa [Fin.getElem_fin, Vector.getElem_set_self]
    · rw [getElem_set_slot_ne hk]
      exact h k
  · simp only [respond_rotorId, if_neg hfits]
    exact h k

/-- The reflector for a mode fits it. -/
theorem reflectorFitsMode_reflectorForMode (m : Mode) (refl : ReflectorId) :
    reflectorFitsMode m (reflectorForMode m refl) = true := by
  cases m <;> cases refl <;> rfl

/-- Every legal command keeps the invariants: only LDROT, LDREF and SETMODE, WIRE and RESET write what they speak of. -/
theorem exec_inv (i : Instr) {s : State} (h : Inv s) : ∃ t, exec i s = .next t ∧ Inv t := by
  obtain ⟨hslots, hrefl, hplug⟩ := h
  cases i with
  | enc ch =>
    cases hl : isLetter ch with
    | true =>
      obtain ⟨k, hk⟩ := letterIndex_of_isLetter hl
      exact ⟨_, exec_enc_letter hk s, hslots, hrefl, hplug⟩
    | false => exact ⟨_, exec_enc_nonletter hl s, hslots, hrefl, hplug⟩
  | wire ch1 ch2 =>
    obtain ⟨a, b, ha, hb⟩ | hnon := letters_or_nonletter ch1 ch2
    · exact ⟨_, exec_wire_letters ha hb s, hslots, hrefl, wirePlug_involution hplug a b⟩
    · exact ⟨_, exec_wire_nonletter hnon s, hslots, hrefl, hplug⟩
  | ldrot slot rotor | ldrotBetaGamma slot rotor =>
    refine ⟨loadRotor slot rotor s, rfl, slotsFit_loadRotor hslots slot rotor, ?_⟩
    rw [loadRotor_eq]
    exact ⟨hrefl, hplug⟩
  | setrot slot val => exact ⟨_, exec_setrot slot val s, hslots, hrefl, hplug⟩
  | setring slot val => exact ⟨_, exec_setring slot val s, hslots, hrefl, hplug⟩
  | ldref refl =>
    refine ⟨_, exec_ldref refl s, hslots, ?_, hplug⟩
    rw [ReflectorFits, respond_mode, respond_reflectorId]
    split <;> assumption
  | setmode m =>
    exact ⟨_, exec_setmode m s, hslots, reflectorFitsMode_reflectorForMode m s.reflectorId, hplug⟩
  | reset => exact ⟨_, exec_reset s, inv_reset⟩

/-- Settles O47: a legal word runs its command, an illegal one writes no register. -/
theorem everyCommandKeepsTheInvariants : Obligations.EveryCommandKeepsTheInvariants := by
  intro w s h
  cases hd : decode w with
  | ok i => exact execWord_ok hd s ▸ exec_inv i h
  | error e => exact ⟨_, execWord_error hd s, h⟩

/-! ## Steps and edges (R26) -/

/-- A host with nothing more to drive holds `rst` and `cmd_valid` at 0. -/
theorem step_of_inputs_nil {s : State} (h : s.inputs = []) : step s = clockEdge (.driven false false 0) s := by
  simp [step, nextInput, h]

/-- Every edge that is answered leaves an engine that has been reset and has the invariants. -/
theorem clockEdge_inv {input : PortInput} {s t : State} (hinv : InvAfterReset s) (h : clockEdge input s = .next t) :
    t.hasBeenReset = true ∧ Inv t := by
  rcases clockEdge_cases input s with ⟨_, _, he⟩ | ⟨_, _, _, he⟩ | ⟨_, _, _, _, he⟩ | ⟨w, _, hreset, he⟩ |
    ⟨_, _, hreset, he⟩ <;> rw [he] at h
  · cases h
  · cases h
    exact ⟨rfl, inv_reset⟩
  · cases h
  · obtain ⟨u, hu, huinv⟩ := everyCommandKeepsTheInvariants w s (hinv hreset)
    cases hu.symm.trans h
    exact ⟨(execWord_keeps_environment h).1.trans hreset, huinv⟩
  · cases h
    exact ⟨hreset, hinv hreset⟩

/-- Settles O48: a step is the edge of the host's next input, and taking it off the list touches no register. -/
theorem everyStepKeepsTheInvariants : Obligations.EveryStepKeepsTheInvariants := by
  intro s t hinv h
  have hedge : t.hasBeenReset = true ∧ Inv t := by
    cases hin : s.inputs with
    | nil => exact clockEdge_inv hinv ((step_of_inputs_nil hin).symm.trans h)
    | cons input rest =>
      exact clockEdge_inv (s := { s with inputs := rest }) hinv ((step_eq_clockEdge hin).symm.trans h)
  exact ⟨fun _ => hedge.2, hedge⟩

/-- No word is refused. -/
theorem execWord_ne_refused (w : Word) (s : State) (r : Refusal) : execWord w s ≠ .refused r := by
  obtain ⟨c, ill, u, hu⟩ := execWord_responds w s
  simp [hu]

/-- An edge is refused for a broken duty, or before the first pin reset unless it is one. -/
theorem clockEdge_refused_iff (input : PortInput) (s : State) (r : Refusal) : clockEdge input s = .refused r ↔
    (∃ duty, input = .broken duty ∧ r = .hostDutyBroken duty) ∨
    (s.hasBeenReset = false ∧ r = .notReset ∧ ∃ v w, input = .driven false v w) := by
  rcases clockEdge_cases input s with ⟨duty, rfl, he⟩ | ⟨v, w, rfl, he⟩ | ⟨v, w, rfl, hreset, he⟩ |
    ⟨w, rfl, hreset, he⟩ | ⟨w, rfl, hreset, he⟩ <;> rw [he]
  · simp [eq_comm (a := r)]
  · simp
  · simp [hreset, eq_comm (a := r)]
  · simp [hreset, execWord_ne_refused]
  · simp [hreset]

/-- Settles O11: the refusals of the edge at the head of the host's list, or of the idle edge of an empty list. -/
theorem stepRefusesOnlyOutsideTheSpec : Obligations.StepRefusesOnlyOutsideTheSpec := by
  intro s r
  cases hin : s.inputs with
  | nil => simp [step_of_inputs_nil hin, clockEdge_refused_iff]
  | cons input rest => simp [step_eq_clockEdge hin, clockEdge_refused_iff]

/-- A command presented to an engine that has been reset executes, in the state with that input taken off. -/
theorem step_command {s : State} {w : Word} {rest : List PortInput} (hreset : s.hasBeenReset = true)
    (hin : s.inputs = .driven false true w :: rest) : step s = execWord w { s with inputs := rest } :=
  (step_eq_clockEdge hin).trans (clockEdge_command (s := { s with inputs := rest }) hreset w)

/-- The step after presenting a word to an engine that has been reset executes it. -/
theorem step_presentWord {s : State} (hreset : s.hasBeenReset = true) (w : Word) :
    step (presentWord w s) = execWord w s :=
  step_command hreset (presentWord_inputs w s)

/-- Settles O8: the word at the head of the list executes, legal or illegal. -/
theorem stepExecutesThePresentedWord : Obligations.StepExecutesThePresentedWord :=
  fun _ _ _ hreset hin => ⟨fun _ hd => (step_command hreset hin).trans (execWord_ok hd _),
    fun _ hd => (step_command hreset hin).trans (execWord_error hd _)⟩

/-- Settles O12: both resets load the values of the reset state. -/
theorem bothResetsLoadTheSameState : Obligations.BothResetsLoadTheSameState := by
  intro s v w rest hin
  exact ⟨_, _, (step_eq_clockEdge hin).trans (clockEdge_rst v w _), exec_reset s,
    sameRegisters_reset_loadResetValues s, rfl, rfl, rfl, rfl, rfl, reset_plug_getElem, ⟨rfl, rfl⟩, rfl, rfl⟩

/-! ## Words presented edge by edge (R8, R170) -/

/-- A machine makes one step and then the rest. -/
theorem core_run_succ {M : Host.Core} {s t : M.State} (h : M.step s = .next t) (k : Nat) :
    M.run (k + 1) s = M.run k t := by
  simp [Host.Core.run, h]

/-- One edge of the clocked machine, then the rest of its edges. -/
theorem core_run_step {s t : State} (h : step s = .next t) (k : Nat) :
    (Host.Core.run core (k + 1) s : Host.Outcome State Fault Refusal) = Host.Core.run core k t :=
  core_run_succ (M := core) (s := s) (t := t) h k

/-- A run of words completes, answers each word, and is what the clocked machine does with the words presented. -/
theorem runWords_eq_core_run (ws : List Word) {s : State} (hreset : s.hasBeenReset = true) (rest : List PortInput) :
    ∃ t rs, runWords ws s = .next (t, rs) ∧ rs.length = ws.length ∧
      (Host.Core.run core ws.length { s with inputs := ws.map (PortInput.driven false true) ++ rest } :
        Host.Outcome State Fault Refusal) = .next { t with inputs := rest } := by
  induction ws generalizing s with
  | nil => exact ⟨s, [], rfl, rfl, rfl⟩
  | cons w ws ih =>
    obtain ⟨c, ill, v, hv⟩ := execWord_responds w s
    have hmark : (respond c ill v).hasBeenReset = s.hasBeenReset := (execWord_keeps_environment hv).1
    obtain ⟨t, rs, hrun, hlength, hcore⟩ := ih (hmark.trans hreset)
    refine ⟨t, _, runWords_cons hv hrun, congrArg Nat.succ hlength, ?_⟩
    have hword := execWord_inputs hv (ws.map (PortInput.driven false true) ++ rest)
    have hstep := step_presentWord (s := { s with inputs := ws.map (PortInput.driven false true) ++ rest }) hreset w
    exact (core_run_step (hstep.trans hword) ws.length).trans hcore

/-- Settles O53: by induction on the words. -/
theorem presentedWordsRunAsTheFoldOfExec : Obligations.PresentedWordsRunAsTheFoldOfExec := by
  intro ws s rest hreset hin
  have hrun := runWords_eq_core_run ws hreset rest
  rwa [← hin] at hrun

end Sys2Proof.Machine

/-! SUPPORT. What a keystroke does to the rotations (R90, R91), that both notches never meet again (R93), and the period
of the rack from reset (R95). -/

namespace Sys2Proof.Machine

/-! ## The stepping table (R91) -/

/-- Slot 0 advances at every keystroke. -/
theorem stepRack_engine_rotation_zero (s : State) :
    (stepRack engineConfig s).rotation[0] = s.rotation[0] + 1 := by
  simp only [stepRack_engine_rotation]
  rfl

/-- Slot 1 advances once for each of the slots 0 and 1 that is on a notch. -/
theorem stepRack_engine_rotation_one (s : State) :
    (stepRack engineConfig s).rotation[1] =
      s.rotation[1] + (if s.rotation[1] ∈ engineConfig.notch s.rotorId[1] then (1 : Letter) else 0) +
        (if s.rotation[0] ∈ engineConfig.notch s.rotorId[0] then (1 : Letter) else 0) := by
  simp only [stepRack_engine_rotation]
  rfl

/-- Settles O19: each row is the advance of slots 1 and 2 with the two notch tests decided. -/
theorem keystrokeFollowsTheStepTable : Obligations.KeystrokeFollowsTheStepTable := by
  intro s ch hch
  obtain ⟨t, ht, hrot⟩ := exec_enc_rotation hch s
  refine ⟨t, ht, ?_⟩
  simp only [hrot, stepRack_engine_rotation_zero, stepRack_engine_rotation_one, stepRack_rotation_two,
    stepRack_rotation_three]
  refine ⟨trivial, trivial, fun h1 h0 => ?_, fun h1 h0 => ?_, fun h1 h0 => ?_, fun h1 h0 => ?_⟩
  · rw [if_neg h1, if_neg h0, if_neg h1, add_zero, add_zero]
    exact ⟨rfl, rfl⟩
  · rw [if_neg h1, if_pos h0, if_neg h1, add_zero]
    exact ⟨rfl, rfl⟩
  · rw [if_pos h1, if_neg h0, if_pos h1, add_zero]
    exact ⟨rfl, rfl⟩
  · rw [if_pos h1, if_pos h0, if_pos h1, add_assoc]
    exact ⟨rfl, rfl⟩

/-- Settles O24: the advances of slots 0, 1, 2 mention nothing else. -/
theorem steppingReadsOnlyItsOwnInputs : Obligations.SteppingReadsOnlyItsOwnInputs := by
  intro s s' ch ch' hch hch' hid0 hid1 hrot0 hrot1 hrot2
  obtain ⟨t, ht, hrot⟩ := exec_enc_rotation hch s
  obtain ⟨t', ht', hrot'⟩ := exec_enc_rotation hch' s'
  refine ⟨t, t', ht, ht', ?_⟩
  simp only [hrot, hrot', stepRack_engine_rotation_zero, stepRack_engine_rotation_one, stepRack_rotation_two, hid0,
    hid1, hrot0, hrot1, hrot2, and_self]

/-! ## Both notches at once (R93) -/

/-- No rotor has two notches one step apart (R45). -/
theorem notch_succ_not_notch (id : RotorId) : ∀ r : Letter, r ∈ engineConfig.notch id → r + 1 ∉ engineConfig.notch id := by
  cases id <;> decide

/-- Settles O22: a fast rotor that arrives on a notch carries nothing, so the middle rotor either stayed off its notches
or left one by a single step. -/
theorem keystrokeNeverLeavesBothOnANotch : Obligations.KeystrokeNeverLeavesBothOnANotch := by
  intro s ch hch
  obtain ⟨i, hi⟩ := letterIndex_of_isLetter hch
  refine ⟨_, exec_enc_letter hi s, fun ⟨hfast, hmiddle⟩ => ?_⟩
  replace hfast : (stepRack engineConfig s).rotation[0] ∈ engineConfig.notch s.rotorId[0] := hfast
  replace hmiddle : (stepRack engineConfig s).rotation[1] ∈ engineConfig.notch s.rotorId[1] := hmiddle
  rw [stepRack_engine_rotation_zero] at hfast
  have hcarry : s.rotation[0] ∉ engineConfig.notch s.rotorId[0] := fun h => notch_succ_not_notch _ _ h hfast
  rw [stepRack_engine_rotation_one, if_neg hcarry, add_zero] at hmiddle
  by_cases h1 : s.rotation[1] ∈ engineConfig.notch s.rotorId[1]
  · rw [if_pos h1] at hmiddle
    exact notch_succ_not_notch _ _ h1 hmiddle
  · rw [if_neg h1, add_zero] at hmiddle
    exact h1 hmiddle

/-! ## The period from reset (R95) -/

/-- The rotations after `n` keystrokes from reset. Slot 0 has carried `(n + 4) / 26` times, first as it leaves 21; slot 1
has double-stepped `(n + 549) / 650` times, first as it leaves 4 at the keystroke after `n = 100`. -/
def rackFromReset (n : Nat) : Vector Letter 4 :=
  #v[Fin.ofNat 26 n, Fin.ofNat 26 ((n + 4) / 26 + (n + 549) / 650), Fin.ofNat 26 ((n + 549) / 650), 0]

theorem ofNat_eq_iff (m : Nat) (r : Letter) : Fin.ofNat 26 m = r ↔ m % 26 = r.val := Fin.ext_iff

/-- An advance of a letter given as a number. -/
theorem ofNat_add_ite (m : Nat) (p : Prop) [Decidable p] :
    Fin.ofNat 26 m + (if p then (1 : Letter) else 0) = Fin.ofNat 26 (m + if p then 1 else 0) := by
  apply Fin.ext
  split <;> simp [Fin.val_add]

/-- The carries of slot 0, up to one more keystroke. -/
theorem carries_succ (n : Nat) : (n + 1 + 4) / 26 = (n + 4) / 26 + if n % 26 = 21 then 1 else 0 := by
  split <;> omega

/-- The double steps of slot 1, up to one more keystroke. -/
theorem doubleSteps_succ (n : Nat) : (n + 1 + 549) / 650 = (n + 549) / 650 + if n % 650 = 100 then 1 else 0 := by
  split <;> omega

/-- Slot 0 carries at the keystrokes that leave it at 22. -/
theorem fastNotch_iff (n : Nat) : Fin.ofNat 26 n ∈ engineConfig.notch .iii ↔ n % 26 = 21 := by
  rw [engineConfig_notch, notchTable, List.mem_singleton, ofNat_eq_iff]
  rfl

/-- Slot 1 stands on its notch once in 650 keystrokes. -/
theorem middleNotch_iff (n : Nat) :
    Fin.ofNat 26 ((n + 4) / 26 + (n + 549) / 650) ∈ engineConfig.notch .ii ↔ n % 650 = 100 := by
  rw [engineConfig_notch, notchTable, List.mem_singleton, ofNat_eq_iff]
  have hfour : ((4 : Letter) : Nat) = 4 := rfl
  omega

/-- One more keystroke. -/
theorem stepRack_rackFromReset {s : State} (hid0 : s.rotorId[0] = .iii) (hid1 : s.rotorId[1] = .ii) {n : Nat}
    (hrot : s.rotation = rackFromReset n) : (stepRack engineConfig s).rotation = rackFromReset (n + 1) := by
  have hfast : s.rotation[0] ∈ engineConfig.notch .iii ↔ n % 26 = 21 := by
    simp only [hrot]
    exact fastNotch_iff n
  have hmiddle : s.rotation[1] ∈ engineConfig.notch .ii ↔ n % 650 = 100 := by
    simp only [hrot]
    exact middleNotch_iff n
  have h0 : Fin.ofNat 26 (n + 1) = Fin.ofNat 26 n + 1 := (ofNat_add_ite n True).symm
  have h1 : Fin.ofNat 26 ((n + 1 + 4) / 26 + (n + 1 + 549) / 650) =
      Fin.ofNat 26 ((n + 4) / 26 + (n + 549) / 650) + (if n % 650 = 100 then (1 : Letter) else 0) +
        (if n % 26 = 21 then (1 : Letter) else 0) := by
    rw [ofNat_add_ite, ofNat_add_ite, carries_succ, doubleSteps_succ]
    congr 1
    omega
  have h2 : Fin.ofNat 26 ((n + 1 + 549) / 650) =
      Fin.ofNat 26 ((n + 549) / 650) + (if n % 650 = 100 then (1 : Letter) else 0) := by
    rw [ofNat_add_ite, doubleSteps_succ]
  simp only [stepRack_engine_rotation, hid0, hid1, hfast, hmiddle]
  simp only [hrot, rackFromReset, h0, h1, h2]
  rfl

/-- A text of letters turns the rack by its length, whatever the letters. -/
theorem runWords_rackFromReset (text : List Byte) (hletters : ∀ ch ∈ text, isLetter ch = true) {s : State}
    (hid0 : s.rotorId[0] = .iii) (hid1 : s.rotorId[1] = .ii) {n : Nat} (hrot : s.rotation = rackFromReset n) :
    ∃ t rs, runWords (encWords text) s = .next (t, rs) ∧ t.rotation = rackFromReset (n + text.length) := by
  induction text generalizing s n with
  | nil => exact ⟨s, [], rfl, hrot⟩
  | cons ch text ih =>
    obtain ⟨hch, htext⟩ := List.forall_mem_cons.mp hletters
    obtain ⟨i, hi⟩ := letterIndex_of_isLetter hch
    have hstep := stepRack_rackFromReset hid0 hid1 hrot
    obtain ⟨t, rs, hrun, hfinal⟩ := ih htext (s := respond _ false (stepRack engineConfig s)) hid0 hid1 hstep
    refine ⟨t, _, runWords_encWords_cons (exec_enc_letter hi s) hrun, hfinal.trans (congrArg rackFromReset ?_)⟩
    rw [List.length_cons]
    omega

/-- The rack is at its start after 16900 keystrokes. -/
theorem rackFromReset_period : rackFromReset 16900 = #v[0, 0, 0, 0] := by
  decide

/-- It is not earlier: slot 0 is at its start every 26 keystrokes, slot 2 has to have come round once, and then slot 1 is
behind. -/
theorem rackFromReset_ne {n : Nat} (hpos : 0 < n) (hlt : n < 16900) : rackFromReset n ≠ #v[0, 0, 0, 0] := by
  intro h
  have h0 : Fin.ofNat 26 n = 0 := congrArg (fun v : Vector Letter 4 => v[0]) h
  have h1 : Fin.ofNat 26 ((n + 4) / 26 + (n + 549) / 650) = 0 := congrArg (fun v : Vector Letter 4 => v[1]) h
  have h2 : Fin.ofNat 26 ((n + 549) / 650) = 0 := congrArg (fun v : Vector Letter 4 => v[2]) h
  rw [ofNat_eq_iff, Fin.val_zero] at h0 h1 h2
  omega

/-- Settles O23: the rack after a text of letters is that of its length. -/
theorem rackReturnsAfterExactly16900Keystrokes : Obligations.RackReturnsAfterExactly16900Keystrokes := by
  intro text hletters
  obtain ⟨t, rs, hrun, hrot⟩ := runWords_rackFromReset text hletters (s := State.reset) (n := 0) rfl rfl rfl
  rw [Nat.zero_add] at hrot
  refine ⟨t, rs, hrun, fun hlen => ?_, fun hpos hlt => ?_⟩
  · rw [hrot, hlen, rackFromReset_period]
  · rw [hrot]
    exact rackFromReset_ne hpos hlt

end Sys2Proof.Machine

/-! SUPPORT. The wheel laws (R84), the signal path as an involution (R103), reciprocity (R104), no fixed letter (R106),
M4 as M3 (R107). -/

namespace Sys2Proof.Machine

/-! ## One wheel (R84) -/

/-- One rotor's inverse undoes it: the offsets cancel around the two table reads. -/
theorem rotorRingSettingLogic_inverse_forward {cfg : Config} (hcfg : cfg.WF) (id : RotorId) (rot ring i : Letter) :
    rotorRingSettingLogic cfg .inverse id rot ring (rotorRingSettingLogic cfg .forward id rot ring i) = i := by
  simp only [rotorRingSettingLogic_eq, add_sub_cancel_right, sub_add_cancel, rotorRead_inverse_forward hcfg]

/-- L1: a pass depends on the difference of rotation and ring setting only. -/
theorem rotorRingSettingLogic_difference (cfg : Config) (dir : Direction) (id : RotorId) (rot ring i : Letter) :
    rotorRingSettingLogic cfg dir id rot ring i = rotorRead cfg dir id (i + (rot - ring)) - (rot - ring) := by
  have hin : i - ring + rot = i + (rot - ring) := by abel
  rw [rotorRingSettingLogic_eq, hin]
  abel

/-- L4: with the rotation at the ring setting a pass is the bare table. -/
theorem rotorRingSettingLogic_rest (cfg : Config) (dir : Direction) (id : RotorId) (rot i : Letter) :
    rotorRingSettingLogic cfg dir id rot rot i = rotorRead cfg dir id i := by
  rw [rotorRingSettingLogic_eq, sub_add_cancel, sub_add_cancel]

/-- Settles O25: L1 by arithmetic, L2 and L3 because the two tables undo each other, L4 because the offsets cancel. -/
theorem wheelLawsHoldOfEveryConfiguration : Obligations.WheelLawsHoldOfEveryConfiguration := by
  intro cfg hcfg id rot ring
  have hinverse : Function.LeftInverse (applyInverse cfg id rot ring) (applyForward cfg id rot ring) :=
    rotorRingSettingLogic_inverse_forward hcfg id rot ring
  have hforward : Function.RightInverse (applyInverse cfg id rot ring) (applyForward cfg id rot ring) :=
    rotorRingSettingLogic_forward_inverse hcfg id rot ring
  refine ⟨rotorRingSettingLogic_difference cfg .forward id rot ring,
    rotorRingSettingLogic_difference cfg .inverse id rot ring, hinverse, hforward,
    ⟨hinverse.injective, hforward.surjective⟩, fun hrest i => ?_⟩
  rw [hrest]
  exact rotorRingSettingLogic_rest cfg .forward id ring i

/-! ## The path is an involution (R103) -/

/-- The way out undoes the way in, which meets the same rotors in the opposite order. -/
theorem throughRotors_inverse_forward {cfg : Config} (hcfg : cfg.WF) (rotorId : Vector RotorId 4)
    (rotation ring : Vector Letter 4) (slots : List Slot) (i : Letter) :
    throughRotors cfg .inverse rotorId rotation ring slots.reverse
      (throughRotors cfg .forward rotorId rotation ring slots i) = i := by
  induction slots generalizing i with
  | nil => rfl
  | cons slot slots ih =>
    rw [List.reverse_cons, throughRotors_append, throughRotors_cons, throughRotors_cons, throughRotors_nil, ih,
      rotorRingSettingLogic_inverse_forward hcfg]

/-- An involution met between a way in and a way out that undo each other, and between the two passes of an involution,
is an involution. -/
theorem conjugate_involutive {plug wayIn turn wayOut : Letter → Letter} (hplug : Function.Involutive plug)
    (hundo : Function.LeftInverse wayIn wayOut) (hundo' : Function.LeftInverse wayOut wayIn)
    (hturn : Function.Involutive turn) : Function.Involutive fun i => plug (wayOut (turn (wayIn (plug i)))) := by
  intro i
  show plug (wayOut (turn (wayIn (plug (plug (wayOut (turn (wayIn (plug i))))))))) = i
  rw [hplug, hundo, hturn, hundo', hplug]

theorem path_involutive {cfg : Config} (hcfg : cfg.WF) {s : State} (hplug : PlugInvolution s.plug) :
    Function.Involutive (path cfg s) :=
  conjugate_involutive ((plugInvolution_iff s.plug).mp hplug)
    (throughRotors_forward_inverse hcfg s.rotorId s.rotation s.ring (activeSlots s.mode))
    (throughRotors_inverse_forward hcfg s.rotorId s.rotation s.ring (activeSlots s.mode)) (hcfg.refl_refl s.reflectorId)

/-- Settles O26: the ways in and out undo each other, whatever the active slots. -/
theorem pathIsAnInvolution : Obligations.PathIsAnInvolution :=
  fun _ hcfg _ hplug => path_involutive hcfg hplug

/-- Settles O28: of every configuration by conjugation, and the engine's reflectors are a closed fact. -/
theorem noLetterEnciphersToItself : Obligations.NoLetterEnciphersToItself :=
  ⟨fun _ hcfg hmoves _ hplug => path_ne hcfg hmoves hplug, reflTable_moves⟩

/-! ## Reciprocity over a text (R104) -/

/-- `upper` of a letter is the character of its index. -/
theorem upper_letter {ch : Byte} {i : Letter} (h : letterIndex ch = some i) : upper ch = letterChar i := by
  rw [upper, h]

/-- `upper` leaves a non-letter. -/
theorem upper_nonletter {ch : Byte} (h : isLetter ch = false) : upper ch = ch := by
  rw [upper, (letterIndex_eq_none ch).mpr h]

/-- One character: the second engine steps as the first, so it undoes the first one's path. -/
theorem exec_enc_reciprocal {s s' : State} (h : SameRegisters s s') (hplug : PlugInvolution s.plug) (ch : Byte) :
    ∃ t t', exec (.enc ch) s = .next t ∧ exec (.enc t.respChar) s' = .next t' ∧ t'.respChar = upper ch ∧
      SameRegisters t t' ∧ t.plug = s.plug := by
  cases hl : isLetter ch with
  | true =>
    obtain ⟨i, hi⟩ := letterIndex_of_isLetter hl
    have hstep := sameRegisters_stepRack h engineConfig
    refine ⟨_, _, exec_enc_letter hi s, exec_enc_letter (letterIndex_letterChar _) s', ?_,
      sameRegisters_respond hstep .., rfl⟩
    rw [respond_respChar, sameRegisters_path hstep, upper_letter hi]
    exact congrArg letterChar (path_involutive engineConfig_wf (s := stepRack engineConfig s) hplug i)
  | false =>
    exact ⟨_, _, exec_enc_nonletter hl s, exec_enc_nonletter hl s', (upper_nonletter hl).symm,
      sameRegisters_respond h .., rfl⟩

/-- Settles O27: character by character, the plugboard staying as it is. -/
theorem cipherIsReciprocalOverTexts : Obligations.CipherIsReciprocalOverTexts := by
  intro s s' text
  induction text generalizing s s' with
  | nil => exact fun h _ => ⟨s, [], s', [], rfl, rfl, rfl, nofun, nofun, h⟩
  | cons ch text ih =>
    intro h hplug
    obtain ⟨u, u', hu, hu', hchar, hregs, hkept⟩ := exec_enc_reciprocal h hplug ch
    obtain ⟨t, rs, t', rs', hrun, hrun', hchars, hclean, hclean', hfinal⟩ := ih u u' hregs (hkept ▸ hplug)
    refine ⟨t, _, t', _, runWords_encWords_cons hu hrun, runWords_encWords_cons hu' hrun', ?_,
      List.forall_mem_cons.mpr ⟨exec_respIllegal hu, hclean⟩, List.forall_mem_cons.mpr ⟨exec_respIllegal hu', hclean'⟩,
      hfinal⟩
    rw [List.map_cons, List.map_cons, hchars]
    exact congrArg (· :: text.map upper) hchar

/-! ## M4 with a thin reflector as M3 (R107) -/

/-- An M4 engine whose fourth rotor, at rest, makes of its reflector the reflector `refl` of M3. -/
def ActsAsM3 (refl : ReflectorId) (s : State) : Prop :=
  s.mode = .m4 ∧ s.rotation[3] = s.ring[3] ∧ ∀ x : Letter,
    engineConfig.rotorInv s.rotorId[3] (engineConfig.refl s.reflectorId (engineConfig.rotorFwd s.rotorId[3] x)) =
      engineConfig.refl refl x

/-- The M3 engine it acts as. -/
def asM3 (refl : ReflectorId) (s : State) : State := { s with mode := .m3, reflectorId := refl }

/-- Both engines have one path: the fourth rotor and the thin reflector together are the reflector of M3. -/
theorem path_asM3 {refl : ReflectorId} {s : State} (h : ActsAsM3 refl s) (i : Letter) :
    path engineConfig (asM3 refl s) i = path engineConfig s i := by
  obtain ⟨hm, hrest, htables⟩ := h
  have hfourth (x : Letter) :
      applyInverse engineConfig s.rotorId[3] s.rotation[3] s.ring[3]
        (reflect engineConfig s.reflectorId (applyForward engineConfig s.rotorId[3] s.rotation[3] s.ring[3] x)) =
      reflect engineConfig refl x := by
    rw [hrest]
    simp only [applyInverse, applyForward, rotorRingSettingLogic_rest]
    exact htables x
  simp only [path_m4 hm, hfourth]
  exact path_m3 (s := asM3 refl s) rfl engineConfig i

/-- A character is answered alike, and the M4 engine goes on acting as the M3 engine. -/
theorem exec_enc_asM3 {refl : ReflectorId} {s : State} (h : ActsAsM3 refl s) (ch : Byte) :
    ∃ t, exec (.enc ch) s = .next t ∧ exec (.enc ch) (asM3 refl s) = .next (asM3 refl t) ∧ ActsAsM3 refl t := by
  cases hl : isLetter ch with
  | true =>
    obtain ⟨i, hi⟩ := letterIndex_of_isLetter hl
    have hstep : ActsAsM3 refl (stepRack engineConfig s) := by
      obtain ⟨hm, hrest, htables⟩ := h
      exact ⟨hm, (stepRack_rotation_three engineConfig s).trans hrest, htables⟩
    refine ⟨_, exec_enc_letter hi s, ?_, hstep⟩
    rw [exec_enc_letter hi, ← path_asM3 hstep]
    rfl
  | false => exact ⟨_, exec_enc_nonletter hl s, exec_enc_nonletter hl _, h⟩

theorem runWords_encWords_asM3 (text : List Byte) {refl : ReflectorId} {s : State} (h : ActsAsM3 refl s) :
    ∃ t rs, runWords (encWords text) s = .next (t, rs) ∧
      runWords (encWords text) (asM3 refl s) = .next (asM3 refl t, rs) := by
  induction text generalizing s with
  | nil => exact ⟨s, [], rfl, rfl⟩
  | cons ch text ih =>
    obtain ⟨u, hu, hu', hacts⟩ := exec_enc_asM3 h ch
    obtain ⟨t, rs, hrun, hrun'⟩ := ih hacts
    exact ⟨t, _, runWords_encWords_cons hu hrun, runWords_encWords_cons hu' hrun'⟩

/-- Beta around B-thin is B, and Gamma around C-thin is C (R107, on the tables of R42 to R44). -/
theorem beta_bThin (x : Letter) : engineConfig.rotorInv .beta (engineConfig.refl .bThin (engineConfig.rotorFwd .beta x)) =
    engineConfig.refl .b x := by
  revert x; decide

theorem gamma_cThin (x : Letter) :
    engineConfig.rotorInv .gamma (engineConfig.refl .cThin (engineConfig.rotorFwd .gamma x)) =
      engineConfig.refl .c x := by
  revert x; decide

/-- Settles O29: either pairing acts as the M3 reflector, and keystrokes never move slot 3. -/
theorem fourthRotorWithThinReflectorMatchesM3 : Obligations.FourthRotorWithThinReflectorMatchesM3 := by
  intro s text hm hrest
  constructor <;> intro hid hrefl
  · obtain ⟨t, rs, hrun, hrun'⟩ := runWords_encWords_asM3 text (refl := .b) (s := s)
      ⟨hm, hrest, by rw [hid, hrefl]; exact beta_bThin⟩
    exact ⟨t, _, rs, hrun, hrun'⟩
  · obtain ⟨t, rs, hrun, hrun'⟩ := runWords_encWords_asM3 text (refl := .c) (s := s)
      ⟨hm, hrest, by rw [hid, hrefl]; exact gamma_cThin⟩
    exact ⟨t, _, rs, hrun, hrun'⟩

end Sys2Proof.Machine

/-! SUPPORT. Letter arithmetic as numbers (R85), the operand the host reduces (R64), switching the mode (R129), which
commands commute (R133), the frame of every command (R29). -/

namespace Sys2Proof.Machine

/-! ## Letter arithmetic (R85) -/

theorem addLetter_val (x y : Letter) :
    (addLetter x y).val = if x.val + y.val < 26 then x.val + y.val else x.val + y.val - 26 := by
  simp only [addLetter]
  split <;> omega

theorem subLetter_val (x y : Letter) :
    (subLetter x y).val = if y ≤ x then x.val - y.val else x.val + 26 - y.val := by
  simp only [subLetter, Fin.le_def]
  split <;> omega

theorem nextLetter_val (r : Letter) : (nextLetter r).val = if r.val < 25 then r.val + 1 else 0 := by
  have hone : ((1 : Letter) : Nat) = 1 := rfl
  rw [nextLetter, addLetter_val, hone]
  split <;> split <;> omega

/-- The floored modulus is the letter that differs from its argument by a multiple of 26. -/
theorem fmod26_eq_iff (v : Int) (r : Letter) : fmod26 v = r ↔ (26 : Int) ∣ v - (r.val : Int) := by
  have hval := fmod26_val v
  rw [Fin.ext_iff]
  omega

/-- The table A6 of the floored modulus, of the integers and of their 16-bit operands. -/
theorem fmod26_table : ∀ p ∈ ([ (0, 0), (1, 1), (25, 25), (26, 0), (27, 1), (51, 25), (52, 0), (100, 22), (1000, 12),
    (32767, 7), (-1, 25), (-2, 24), (-25, 1), (-26, 0), (-27, 25), (-52, 0), (-53, 25), (-1000, 14),
    (-32768, 18) ] : List (Int × Letter)), fmod26 p.1 = p.2 ∧ offsetLetter (BitVec.ofInt 16 p.1) = p.2 :=
  List.forall_iff_forall_mem.mp (by decide)

/-- Settles O16: A2 to A4 as case splits, A5 as a residue, A6 evaluated. -/
theorem letterArithmeticFollowsItsLaws : Obligations.LetterArithmeticFollowsItsLaws :=
  ⟨addLetter_val, subLetter_val, nextLetter_val, fmod26_eq_iff, fmod26_table⟩

/-! ## The operand the host reduces (R64) -/

/-- A 16-bit operand is read back as its number when the number is in its range. -/
theorem toInt_ofInt_of_range {v : Int} (h : -32768 ≤ v ∧ v ≤ 32767) : (BitVec.ofInt 16 v).toInt = v := by
  rw [BitVec.toInt_ofInt, Int.bmod_eq_of_le] <;> omega

/-- A letter's own operand stores the letter. -/
theorem offsetLetter_ofNat (r : Letter) : offsetLetter (BitVec.ofNat 16 r.val) = r := by
  revert r; decide

/-- The operand the host sends stores the residue of its number, in range or reduced. -/
theorem offsetLetter_offsetOperand (v : Int) : offsetLetter (offsetOperand v) = fmod26 v := by
  rw [offsetOperand]
  split
  case isTrue h => rw [offsetLetter, toInt_ofInt_of_range h]
  case isFalse => exact offsetLetter_ofNat (fmod26 v)

/-- Settles O33: the operand stores the residue, and the stored letter depends on the residue only. -/
theorem hostReducedOffsetsGiveTheSameResult : Obligations.HostReducedOffsetsGiveTheSameResult := by
  refine ⟨fun s slot v => ⟨fmod26 v, fmod26_val v, ?_, ?_⟩, fun s slot val val' h => ?_⟩
  · rw [exec_setrot, offsetLetter_offsetOperand]
    rfl
  · rw [exec_setring, offsetLetter_offsetOperand]
    rfl
  · have hletter : offsetLetter val = offsetLetter val' := fmod26_congr h
    exact ⟨⟨_, exec_setrot slot val s, by rw [exec_setrot, hletter]⟩, _, exec_setring slot val s,
      by rw [exec_setring, hletter]⟩

/-! ## Switching the mode and back (R129) -/

/-- A later mode overwrites the thin bit. -/
theorem reflectorForMode_reflectorForMode (m m' : Mode) (refl : ReflectorId) :
    reflectorForMode m' (reflectorForMode m refl) = reflectorForMode m' refl := by
  cases m <;> cases m' <;> cases refl <;> rfl

/-- No reflector fits both modes. -/
theorem mode_eq_of_reflectorFitsMode {m m' : Mode} {refl : ReflectorId} (h : reflectorFitsMode m refl = true)
    (h' : reflectorFitsMode m' refl = true) : m = m' := by
  revert h h'
  cases m <;> cases m' <;> cases refl <;> decide

/-- Settles O37: the second SETMODE finds bit 0 as it was, and a fitting reflector is the one for its mode. -/
theorem switchingModesBackRestoresTheReflector : Obligations.SwitchingModesBackRestoresTheReflector := by
  intro s m hfits
  have hbetween := reflectorFitsMode_reflectorForMode m s.reflectorId
  have hback : reflectorForMode s.mode (reflectorForMode m s.reflectorId) = s.reflectorId :=
    (reflectorForMode_reflectorForMode m s.mode s.reflectorId).trans (reflectorForMode_of_fits hfits)
  refine ⟨_, _, exec_setmode m s, exec_setmode s.mode _, hbetween, fun hne hsame => hne ?_, rfl, rfl, rfl, rfl, hback,
    rfl⟩
  have hkept : reflectorForMode m s.reflectorId = s.reflectorId := hsame
  rw [hkept] at hbetween
  exact mode_eq_of_reflectorFitsMode hbetween hfits

/-! ## Commands as edits, and which commute (R133) -/

/-- The edit of a slot command: it changes the three registers of one slot, each as a function of itself. -/
def editSlot (slot : Slot) (onRotor : RotorId → RotorId) (onRotation onRing : Letter → Letter) (s : State) : State :=
  { s with
    rotorId := s.rotorId.set slot.val (onRotor s.rotorId[slot])
    rotation := s.rotation.set slot.val (onRotation s.rotation[slot])
    ring := s.ring.set slot.val (onRing s.ring[slot]) }

/-- An edit of a slot neither reads nor writes the response registers. -/
theorem editSlot_respond (slot : Slot) (f : RotorId → RotorId) (g k : Letter → Letter) (c : Byte) (ill : Bool)
    (s : State) : editSlot slot f g k (respond c ill s) = respond c ill (editSlot slot f g k s) := rfl

/-- A command that runs one edit and answers `(0x00, 0)`. -/
def RunsEdit (i : Instr) (edit : State → State) : Prop := ∀ s : State, exec i s = .next (respond 0x00 false (edit s))

theorem runsEdit_setrot (slot : Slot) (val : Offset) :
    RunsEdit (.setrot slot val) (editSlot slot id (fun _ => offsetLetter val) id) := by
  intro s
  simp [exec_setrot, editSlot, setRotation]

theorem runsEdit_setring (slot : Slot) (val : Offset) :
    RunsEdit (.setring slot val) (editSlot slot id id fun _ => offsetLetter val) := by
  intro s
  simp [exec_setring, editSlot, setRing]

/-- LDROT replaces the slot's rotor by one that fits, and keeps it otherwise. -/
theorem loadRotor_eq_editSlot (slot : Slot) (rotor : RotorId) (s : State) :
    loadRotor slot rotor s =
      respond 0x00 false (editSlot slot (fun old => if rotorFitsSlot slot rotor then rotor else old) id id s) := by
  rw [loadRotor_eq]
  split <;> simp [editSlot, *]

theorem runsEdit_ldrotOf (slot : Slot) (rotor : RotorId) :
    RunsEdit (ldrotOf slot rotor) (editSlot slot (fun old => if rotorFitsSlot slot rotor then rotor else old) id id) :=
  fun s => (exec_ldrotOf slot rotor s).trans (congrArg Host.Outcome.next (loadRotor_eq_editSlot slot rotor s))

/-- Every slot command is an edit of its slot. -/
theorem exists_runsEdit {i : Instr} {slot : Slot} (h : slotWritten i = some slot) :
    ∃ onRotor onRotation onRing, RunsEdit i (editSlot slot onRotor onRotation onRing) := by
  cases i with
  | ldrot k rotor | ldrotBetaGamma k rotor =>
    cases h
    exact ⟨_, id, id, fun s => congrArg Host.Outcome.next (loadRotor_eq_editSlot slot rotor s)⟩
  | setrot k val =>
    cases h
    exact ⟨_, _, _, runsEdit_setrot slot val⟩
  | setring k val =>
    cases h
    exact ⟨_, _, _, runsEdit_setring slot val⟩
  | enc | wire | ldref | setmode | reset => cases h

/-- Edits of different slots commute. -/
theorem editSlot_comm_of_ne {a b : Slot} (h : a ≠ b) (f f' : RotorId → RotorId) (g g' k k' : Letter → Letter)
    (s : State) : editSlot a f g k (editSlot b f' g' k' s) = editSlot b f' g' k' (editSlot a f g k s) := by
  have hval : a.val ≠ b.val := fun e => h (Fin.ext e)
  simp only [editSlot, getElem_set_slot_ne h, getElem_set_slot_ne h.symm, Vector.set_comm _ _ hval]

/-- Edits of one slot commute when they commute register by register. -/
theorem editSlot_comm {slot : Slot} {f f' : RotorId → RotorId} {g g' k k' : Letter → Letter}
    (hf : Function.Commute f f') (hg : Function.Commute g g') (hk : Function.Commute k k') (s : State) :
    editSlot slot f g k (editSlot slot f' g' k' s) = editSlot slot f' g' k' (editSlot slot f g k s) := by
  simp [editSlot, hf.eq, hg.eq, hk.eq]

/-- Two commands that run edits commute when the edits do; an edit sees the answer of the command before it. -/
theorem commandsCommute_iff {i j : Instr} {f g : State → State} (hi : RunsEdit i f) (hj : RunsEdit j g) :
    CommandsCommute i j ↔
      ∀ s, respond 0x00 false (g (respond 0x00 false (f s))) = respond 0x00 false (f (respond 0x00 false (g s))) := by
  constructor
  · intro h s
    obtain ⟨si, sj, t, hsi, ht, hsj, ht'⟩ := h s
    cases (hi s).symm.trans hsi
    cases (hj s).symm.trans hsj
    injection ((hj _).symm.trans ht).trans (ht'.symm.trans (hi _))
  · exact fun h s => ⟨_, _, _, hi s, hj _, hj s, (hi _).trans (congrArg Host.Outcome.next (h s).symm)⟩

/-- Commands on different slots commute. -/
theorem commandsCommute_of_slots_ne {i j : Instr} {a b : Slot} (hi : slotWritten i = some a)
    (hj : slotWritten j = some b) (h : a ≠ b) : CommandsCommute i j := by
  obtain ⟨f, g, k, hedit⟩ := exists_runsEdit hi
  obtain ⟨f', g', k', hedit'⟩ := exists_runsEdit hj
  refine (commandsCommute_iff hedit hedit').mpr fun s => ?_
  rw [editSlot_respond, editSlot_respond, editSlot_comm_of_ne h]

/-- Commands on one slot commute when their edits do, register by register. -/
theorem commandsCommute_of_editSlot {i j : Instr} {slot : Slot} {f f' : RotorId → RotorId}
    {g g' k k' : Letter → Letter} (hi : RunsEdit i (editSlot slot f g k)) (hj : RunsEdit j (editSlot slot f' g' k'))
    (hf : Function.Commute f f') (hg : Function.Commute g g') (hk : Function.Commute k k') : CommandsCommute i j := by
  refine (commandsCommute_iff hi hj).mpr fun s => ?_
  rw [editSlot_respond, editSlot_respond, editSlot_comm hf hg hk]

/-- SETMODE first refuses the reflector C, LDREF first has it replaced by C-thin. -/
theorem not_commandsCommute_setmode_ldref : ¬ CommandsCommute (.setmode .m4) (.ldref .c) := fun h =>
  absurd ((commandsCommute_iff (exec_setmode .m4) (exec_ldref .c)).mp h State.reset) (by decide)

/-- RESET last clears the plugboard, WIRE last leaves a pair. -/
theorem not_commandsCommute_reset_wire : ¬ CommandsCommute .reset (.wire 0x41 0x42) := fun h =>
  absurd ((commandsCommute_iff exec_reset (exec_wire_letters (a := 0) (b := 1) rfl rfl)).mp h State.reset) (by decide)

/-- Settles O38: slot commands are edits of their slots, and WIRE edits the plugboard, which no other command reads. -/
theorem configurationCommandsCommute : Obligations.ConfigurationCommandsCommute := by
  refine ⟨fun i j a b => commandsCommute_of_slots_ne, fun slot rotor val val' => ⟨?_, ?_, ?_⟩,
    fun ch1 ch2 slot rotor val refl m => ?_, not_commandsCommute_setmode_ldref, not_commandsCommute_reset_wire⟩
  · exact commandsCommute_of_editSlot (runsEdit_setrot slot val) (runsEdit_setring slot val') .id_left .id_right .id_left
  · exact commandsCommute_of_editSlot (runsEdit_setrot slot val) (runsEdit_ldrotOf slot rotor) .id_left .id_right .id_left
  · exact commandsCommute_of_editSlot (runsEdit_setring slot val) (runsEdit_ldrotOf slot rotor) .id_left .id_left
      .id_right
  · obtain ⟨edit, hedit⟩ := wireLetters_writes_plug ch1 ch2
    have hwire : RunsEdit (.wire ch1 ch2) fun s => setPlug (edit s.plug) s := fun s =>
      congrArg Host.Outcome.next (hedit s)
    exact ⟨(commandsCommute_iff hwire (runsEdit_ldrotOf slot rotor)).mpr fun _ => rfl,
      (commandsCommute_iff hwire (exec_setrot slot val)).mpr fun _ => rfl,
      (commandsCommute_iff hwire (exec_setring slot val)).mpr fun _ => rfl,
      (commandsCommute_iff hwire (exec_ldref refl)).mpr fun _ => rfl,
      (commandsCommute_iff hwire (exec_setmode m)).mpr fun _ => rfl⟩

/-! ## The frame of every command (R29) -/

/-- LDROT leaves the other slots. -/
theorem loadRotor_rotorId_of_ne {slot k : Slot} (h : k ≠ slot) (rotor : RotorId) (s : State) :
    (loadRotor slot rotor s).rotorId[k] = s.rotorId[k] := by
  simp only [loadRotor_eq, respond_rotorId]
  split
  · exact getElem_set_slot_ne h s.rotorId rotor
  · rfl

/-- WIRE leaves every letter that is neither named nor mapped to by a letter named, on any plugboard. -/
theorem wirePlug_getElem_of_untouched {a b k : Letter} {plug : Vector Letter 26} (ha : k ≠ a) (hb : k ≠ b)
    (hpa : k ≠ plug[a]) (hpb : k ≠ plug[b]) : (wirePlug a b plug)[k] = plug[k] := by
  have hfirst : (removePairing a plug)[k] = plug[k] := by rw [removePairing_getElem, if_neg ha, if_neg hpa]
  have hpartner : k ≠ (removePairing a plug)[b] := by
    rw [removePairing_getElem]
    split
    · exact ha
    · split
      · exact hpa
      · exact hpb
  rw [wirePlug, installPairing_getElem, if_neg hb, if_neg ha, removePairing_getElem, if_neg hb, if_neg hpartner, hfirst]

/-- Settles O45, one command after the other: what its named operations leave unchanged. -/
theorem commandsWriteOnlyTheirRegisters : Obligations.CommandsWriteOnlyTheirRegisters := by
  intro i s
  cases i with
  | enc ch =>
    cases hl : isLetter ch with
    | true =>
      obtain ⟨k, hk⟩ := letterIndex_of_isLetter hl
      exact ⟨_, exec_enc_letter hk s, rfl, rfl, fun h => Bool.noConfusion (hl.symm.trans h),
        stepRack_rotation_three engineConfig s, rfl, rfl, rfl, rfl, rfl⟩
    | false => exact ⟨_, exec_enc_nonletter hl s, rfl, rfl, fun _ => rfl, rfl, rfl, rfl, rfl, rfl, rfl⟩
  | wire ch1 ch2 =>
    obtain ⟨a, b, ha, hb⟩ | hnon := letters_or_nonletter ch1 ch2
    · refine ⟨_, exec_wire_letters ha hb s, rfl, rfl, rfl, rfl, rfl, rfl, rfl, fun hnon => ?_,
        fun a' b' k ha' hb' hka hkb hkpa hkpb => ?_⟩
      · rw [isLetter_of_letterIndex ha, isLetter_of_letterIndex hb] at hnon
        simp at hnon
      · cases ha.symm.trans ha'
        cases hb.symm.trans hb'
        exact wirePlug_getElem_of_untouched hka hkb hkpa hkpb
    · exact ⟨_, exec_wire_nonletter hnon s, rfl, rfl, rfl, rfl, rfl, rfl, rfl, fun _ => rfl, fun _ _ _ _ _ _ _ _ _ => rfl⟩
  | ldrot slot rotor | ldrotBetaGamma slot rotor =>
    have hother := fun k hk => loadRotor_rotorId_of_ne (slot := slot) (k := k) hk rotor s
    rw [loadRotor_eq] at hother
    exact ⟨_, congrArg Host.Outcome.next (loadRotor_eq slot rotor s), rfl, rfl, rfl, rfl, hother, rfl, rfl, rfl⟩
  | setrot slot val =>
    exact ⟨_, exec_setrot slot val s, rfl, rfl, fun _ hk => getElem_set_slot_ne hk s.rotation _, rfl, rfl, rfl, rfl, rfl⟩
  | setring slot val =>
    exact ⟨_, exec_setring slot val s, rfl, rfl, rfl, fun _ hk => getElem_set_slot_ne hk s.ring _, rfl, rfl, rfl, rfl⟩
  | ldref refl => exact ⟨_, exec_ldref refl s, rfl, rfl, rfl, rfl, rfl, rfl, rfl⟩
  | setmode m =>
    refine ⟨_, exec_setmode m s, rfl, rfl, rfl, rfl, rfl, ?_, rfl⟩
    have hcode := reflectorForMode_code m s.reflectorId
    simp only [respond_reflectorId, setReflector_reflectorId]
    omega
  | reset => exact ⟨_, exec_reset s, rfl, rfl, trivial⟩

end Sys2Proof.Machine

/-! SUPPORT. The output ports (R23), the settings lines (R72, R74) and the settings round trip (S7). -/

namespace Sys2Proof.Machine

/-! ## Packed entries (R23) -/

/-- Entries that fit their width fill the width times their number. -/
theorem packEntries_lt {width : Nat} {entries : List Nat} (h : ∀ e ∈ entries, e < 2 ^ width) :
    packEntries width entries < 2 ^ (width * entries.length) := by
  induction entries with
  | nil => exact Nat.one_pos
  | cons e rest ih =>
    obtain ⟨he, hrest⟩ := List.forall_mem_cons.mp h
    calc e + 2 ^ width * packEntries width rest
        < 2 ^ width * (packEntries width rest + 1) := by rw [Nat.mul_succ]; omega
      _ ≤ 2 ^ width * 2 ^ (width * rest.length) := Nat.mul_le_mul_left _ (ih hrest)
      _ = 2 ^ (width * (rest.length + 1)) := by rw [← Nat.pow_add, Nat.mul_succ, Nat.add_comm]

/-- Entry `k` stands `k` widths above the bottom. -/
theorem packEntries_div_mod {width : Nat} {entries : List Nat} (h : ∀ e ∈ entries, e < 2 ^ width) {k : Nat}
    (hk : k < entries.length) : packEntries width entries / 2 ^ (width * k) % 2 ^ width = entries[k] := by
  induction entries generalizing k with
  | nil => exact absurd hk (Nat.not_lt_zero k)
  | cons e rest ih =>
    obtain ⟨he, hrest⟩ := List.forall_mem_cons.mp h
    cases k with
    | zero => simp [packEntries, Nat.mod_eq_of_lt he]
    | succ k =>
      have habove : packEntries width (e :: rest) / 2 ^ width = packEntries width rest := by
        rw [packEntries, Nat.add_mul_div_left _ _ (Nat.two_pow_pos width), Nat.div_eq_of_lt he, Nat.zero_add]
      rw [Nat.mul_succ, Nat.add_comm, Nat.pow_add, ← Nat.div_div_eq_div_mul, habove]
      exact ih hrest (Nat.lt_of_succ_lt_succ hk)

/-- A port wide enough for its entries shows entry `k` in its bits. -/
theorem extractLsb'_packEntries {n width : Nat} {entries : List Nat} (h : ∀ e ∈ entries, e < 2 ^ width)
    (hn : width * entries.length ≤ n) {k : Nat} (hk : k < entries.length) :
    ((BitVec.ofNat n (packEntries width entries)).extractLsb' (width * k) width).toNat = entries[k] := by
  have hfits : packEntries width entries < 2 ^ n := (packEntries_lt h).trans_le (Nat.pow_le_pow_right (by decide) hn)
  rw [BitVec.extractLsb'_toNat, BitVec.toNat_ofNat, Nat.mod_eq_of_lt hfits, Nat.shiftRight_eq_div_pow,
    packEntries_div_mod h hk]

/-- The same of a register file whose entries are shown as numbers. -/
theorem extractLsb'_packEntries_vector {α : Type} {n width m : Nat} {toCode : α → Nat}
    (hcode : ∀ x, toCode x < 2 ^ width) (hn : width * m ≤ n) (v : Vector α m) (k : Fin m) :
    ((BitVec.ofNat n (packEntries width (v.toList.map toCode))).extractLsb' (width * k.val) width).toNat =
      toCode v[k] := by
  have hentries : ∀ e ∈ v.toList.map toCode, e < 2 ^ width := List.forall_mem_map.mpr fun x _ => hcode x
  have hlength : (v.toList.map toCode).length = m := by simp
  rw [extractLsb'_packEntries hentries (hlength.symm ▸ hn) (hlength.symm ▸ k.isLt)]
  simp

theorem rotorCode_lt (rotor : RotorId) : rotor.code < 2 ^ 4 := by
  cases rotor <;> decide

theorem letter_lt (i : Letter) : i.val < 2 ^ 5 := i.isLt.trans (by decide)

/-- Settles O49: each packed port is wide enough for its file, each entry for its codes. -/
theorem observationPortsShowTheRegisters : Obligations.ObservationPortsShowTheRegisters := by
  intro s
  refine ⟨rfl, rfl, rfl, rfl, ?_, ?_, fun slot => ⟨?_, ?_, ?_⟩, fun i => ?_⟩
  · rw [outputPorts]
    cases s.mode <;> rfl
  · rw [outputPorts]
    cases s.reflectorId <;> rfl
  · exact extractLsb'_packEntries_vector rotorCode_lt (by decide) s.rotorId slot
  · exact extractLsb'_packEntries_vector letter_lt (by decide) s.rotation slot
  · exact extractLsb'_packEntries_vector letter_lt (by decide) s.ring slot
  · exact extractLsb'_packEntries_vector letter_lt (by decide) s.plug i

/-! ## The settings lines (R72, R74) -/

theorem expandLine_mode (m : Mode) : expandLine (.mode m.code) = [.setmode m] := by
  cases m <;> rfl

theorem expandLine_reflector (refl : ReflectorId) : expandLine (.reflector refl.code) = [.ldref refl] := by
  cases refl <;> rfl

theorem expandLine_rotor (slot : Slot) (rotor : RotorId) (rot ring : Int) :
    expandLine (.rotor slot.val rotor.code rot ring) =
      [ldrotOf slot rotor, .setrot slot (offsetOperand rot), .setring slot (offsetOperand ring)] := by
  simp only [expandLine, RotorId.ofCode_code]
  exact dif_pos slot.isLt

/-- A code from 2 on names no mode. -/
theorem expandLine_mode_of_le {n : Nat} (h : 2 ≤ n) : expandLine (.mode n) = [] := by
  obtain ⟨k, rfl⟩ := Nat.exists_eq_add_of_le' h
  rfl

/-- A code from 4 on names no reflector. -/
theorem expandLine_reflector_of_le {n : Nat} (h : 4 ≤ n) : expandLine (.reflector n) = [] := by
  obtain ⟨k, rfl⟩ := Nat.exists_eq_add_of_le' h
  rfl

/-- A slot from 4 on, or a rotor code from 10 on, expands to nothing. -/
theorem expandLine_rotor_of_le {n code : Nat} (h : 4 ≤ n ∨ 10 ≤ code) (rot ring : Int) :
    expandLine (.rotor n code rot ring) = [] := by
  rw [expandLine]
  split
  case isTrue hn => rw [(RotorId.ofCode_eq_none_iff code).mpr (h.resolve_left (by omega))]
  case isFalse => rfl

theorem expandSettings_append (lines lines' : List SettingsLine) :
    expandSettings (lines ++ lines') = expandSettings lines ++ expandSettings lines' :=
  List.flatMap_append

/-- The three commands of a rotor line, one after the other. -/
theorem runsTo_expandLine_rotor (slot : Slot) (rotor : RotorId) (rot ring : Letter) (s : State) :
    RunsTo (expandLine (.rotor slot.val rotor.code (rot.val : Int) (ring.val : Int))) s
      (respond 0x00 false (setRing slot ring (respond 0x00 false (setRotation slot rot (loadRotor slot rotor s))))) := by
  have hturn := exec_setrot slot (offsetOperand (rot.val : Int)) (loadRotor slot rotor s)
  rw [offsetLetter_offsetOperand, fmod26_letter] at hturn
  have hshift := exec_setring slot (offsetOperand (ring.val : Int))
    (respond 0x00 false (setRotation slot rot (loadRotor slot rotor s)))
  rw [offsetLetter_offsetOperand, fmod26_letter] at hshift
  rw [expandLine_rotor]
  exact .cons (ldrotOf_wellFormed slot rotor) (exec_ldrotOf slot rotor s) (.cons rfl hturn (.cons rfl hshift (.nil _)))

/-- Settles O51, one kind of line after the other; a load that is ignored lets the two offset commands follow. -/
theorem settingsLinesExpand : Obligations.SettingsLinesExpand := by
  refine ⟨expandLine_mode, expandLine_reflector, expandLine_rotor, fun _ _ => rfl, ⟨rfl, rfl⟩,
    fun _ => expandLine_mode_of_le, fun _ => expandLine_reflector_of_le, fun _ _ rot ring h =>
    expandLine_rotor_of_le h rot ring, expandSettings_append, fun s slot rotor rot ring hmisfit => ?_⟩
  obtain ⟨rs, hrun, -⟩ := runsTo_expandLine_rotor slot rotor rot ring s
  refine ⟨_, rs, hrun, ?_⟩
  have hignored : ¬ rotorFitsSlot slot rotor = true := by rw [hmisfit]; decide
  rw [loadRotor_eq, if_neg hignored]
  exact ⟨rfl, rfl, rfl⟩

/-! ## Texts of engines that agree where their mode looks (R21) -/

/-- The registers of one slot are the same. -/
abbrev SameSlot (slot : Slot) (s t : State) : Prop :=
  t.rotorId[slot] = s.rotorId[slot] ∧ t.rotation[slot] = s.rotation[slot] ∧ t.ring[slot] = s.ring[slot]

theorem SameSlot.trans {slot : Slot} {s t u : State} (h : SameSlot slot s t) (h' : SameSlot slot t u) :
    SameSlot slot s u := by
  obtain ⟨hid, hrot, hring⟩ := h
  obtain ⟨hid', hrot', hring'⟩ := h'
  exact ⟨hid'.trans hid, hrot'.trans hrot, hring'.trans hring⟩

/-- States with the same registers answer every text alike. -/
theorem runWords_encWords_sameRegisters (text : List Byte) {s s' : State} (h : SameRegisters s s') :
    ∃ u v answers, runWords (encWords text) s = .next (u, answers) ∧ runWords (encWords text) s' = .next (v, answers) := by
  induction text generalizing s s' with
  | nil => exact ⟨s, s', [], rfl, rfl⟩
  | cons ch text ih =>
    cases hl : isLetter ch with
    | true =>
      obtain ⟨t, t', ht, ht', hregs, hresp⟩ := exec_enc_letter_sameRegisters h hl
      obtain ⟨u, v, answers, hu, hv⟩ := ih hregs
      exact ⟨u, v, _, runWords_encWords_cons ht hu, hresp ▸ runWords_encWords_cons ht' hv⟩
    | false =>
      obtain ⟨u, v, answers, hu, hv⟩ := ih (sameRegisters_respond h ch ch false false)
      exact ⟨u, v, _, runWords_encWords_cons (exec_enc_nonletter hl s) hu,
        runWords_encWords_cons (exec_enc_nonletter hl s') hv⟩

theorem mem_activeSlots_m4 (slot : Slot) : slot ∈ activeSlots .m4 := by
  revert slot; decide

theorem mem_activeSlots_m3 {slot : Slot} (h : slot ≠ 3) : slot ∈ activeSlots .m3 := by
  revert slot; decide

/-- Engines that agree in mode, reflector, plugboard and the active slots answer every text alike: in M4 they have the
same registers, in M3 they differ in slot 3 at most. -/
theorem runWords_encWords_sameActive (text : List Byte) {s t : State} (hm : t.mode = s.mode)
    (hrefl : t.reflectorId = s.reflectorId) (hplug : t.plug = s.plug)
    (hslots : ∀ slot : Slot, slot ∈ activeSlots s.mode → SameSlot slot s t) :
    ∃ u v answers, runWords (encWords text) s = .next (u, answers) ∧ runWords (encWords text) t = .next (v, answers) := by
  cases hmode : s.mode with
  | m3 =>
    rw [hmode] at hslots
    exact runWords_encWords_sameButSlot3 text hmode
      ⟨hm, hrefl, hplug, fun slot hslot => hslots slot (mem_activeSlots_m3 hslot)⟩
  | m4 =>
    rw [hmode] at hslots
    have hall (slot : Slot) : SameSlot slot s t := hslots slot (mem_activeSlots_m4 slot)
    exact runWords_encWords_sameRegisters text ⟨hm, vector_ext_fin fun slot => (hall slot).1,
      vector_ext_fin fun slot => (hall slot).2.1, vector_ext_fin fun slot => (hall slot).2.2, hrefl, hplug⟩

/-! ## The round trip of the settings (S7) -/

/-- What reloading the rotor lines of some slots keeps. -/
abbrev SameOutsideSlots (s t : State) : Prop := t.mode = s.mode ∧ t.reflectorId = s.reflectorId ∧ t.plug = s.plug

/-- The rotor line of a slot of a valid machine, reloaded, sets the slot and nothing else. -/
theorem runsTo_rotorLine {s : State} {slot : Slot} (hfit : rotorFitsSlot slot s.rotorId[slot] = true) (target : State) :
    ∃ t, RunsTo (expandLine (rotorLine s slot)) target t ∧ SameOutsideSlots target t ∧ SameSlot slot s t ∧
      ∀ k : Slot, k ≠ slot → SameSlot k target t := by
  have hrun := runsTo_expandLine_rotor slot s.rotorId[slot] s.rotation[slot] s.ring[slot] target
  rw [loadRotor_eq, if_pos hfit] at hrun
  exact ⟨_, hrun, ⟨rfl, rfl, rfl⟩,
    ⟨Vector.getElem_set_self slot.isLt, Vector.getElem_set_self slot.isLt, Vector.getElem_set_self slot.isLt⟩,
    fun k hk => ⟨getElem_set_slot_ne hk _ _, getElem_set_slot_ne hk _ _, getElem_set_slot_ne hk _ _⟩⟩

/-- The rotor lines of some slots, reloaded, set these slots and no other register. -/
theorem runsTo_rotorLines {s : State} (hfit : SlotsFit s) (slots : List Slot) (target : State) :
    ∃ t, RunsTo (expandSettings (slots.map (rotorLine s))) target t ∧ SameOutsideSlots target t ∧
      (∀ k : Slot, k ∈ slots → SameSlot k s t) ∧ ∀ k : Slot, k ∉ slots → SameSlot k target t := by
  induction slots generalizing target with
  | nil => exact ⟨target, .nil target, ⟨rfl, rfl, rfl⟩, nofun, fun _ _ => ⟨rfl, rfl, rfl⟩⟩
  | cons slot slots ih =>
    obtain ⟨u, hline, ⟨hm, hrefl, hplug⟩, hset, hkept⟩ := runsTo_rotorLine (hfit slot) target
    obtain ⟨t, hlines, ⟨hm', hrefl', hplug'⟩, hin, hout⟩ := ih u
    refine ⟨t, hline.append hlines, ⟨hm'.trans hm, hrefl'.trans hrefl, hplug'.trans hplug⟩, fun k hk => ?_,
      fun k hk => ?_⟩
    · by_cases hmem : k ∈ slots
      · exact hin k hmem
      · obtain rfl : k = slot := (List.mem_cons.mp hk).resolve_right hmem
        exact hset.trans (hout k hmem)
    · obtain ⟨hne, hnot⟩ := not_or.mp (List.mem_cons.not.mp hk)
      exact (hkept k hne).trans (hout k hnot)

/-- The plugboard lines are WIREs of the letters that have a partner. -/
theorem expandSettings_plugLines (plug : Vector Letter 26) :
    expandSettings (plugLines plug) =
      wireCommands (((List.finRange 26).filter fun i => plug[i] ≠ i).map fun i => (i, plug[i])) := by
  rw [expandSettings, plugLines, List.flatMap_map, wireCommands, List.map_map]
  exact List.map_eq_flatMap.symm

/-- Reloading the plugboard lines of an involution into the identity restores it, and edits no other register. -/
theorem runsTo_plugLines {plug : Vector Letter 26} (hplug : PlugInvolution plug) {target : State}
    (hidentity : ∀ i : Letter, target.plug[i] = i) :
    ∃ t, RunsTo (expandSettings (plugLines plug)) target t ∧ SameRegisters (setPlug plug target) t := by
  obtain ⟨t, hrun, hregs⟩ := runsTo_wireCommands
    (((List.finRange 26).filter fun i => plug[i] ≠ i).map fun i => (i, plug[i])) target
  rw [← expandSettings_plugLines] at hrun
  rw [wireAll_partners_of_identity hplug hidentity (by simp)] at hregs
  exact ⟨t, hrun, hregs⟩

/-- The commands of a written settings file, part by part. -/
theorem expandSettings_writeSettings (s : State) :
    expandSettings (writeSettings s) =
      .setmode s.mode :: (expandSettings ((activeSlots s.mode).map (rotorLine s)) ++
        .ldref s.reflectorId :: expandSettings (plugLines s.plug)) := by
  rw [writeSettings, expandSettings, List.flatMap_cons, expandLine_mode, List.flatMap_append, List.flatMap_cons,
    expandLine_reflector]
  rfl

/-- LDREF of a reflector that fits the mode loads it. -/
theorem exec_ldref_of_fits {refl : ReflectorId} {s : State} (h : reflectorFitsMode s.mode refl = true) :
    exec (.ldref refl) s = .next (respond 0x00 false (setReflector refl s)) := by
  rw [exec_ldref, if_pos h]
  rfl

/-- Settles O52: SETMODE, the rotor lines of the active slots, LDREF (which fits by then) and the WIREs, one after the
other. -/
theorem settingsReloadRestoresTheMachine : Obligations.SettingsReloadRestoresTheMachine := by
  intro s target ⟨hslots, hfits, hinvolution⟩ hidentity
  obtain ⟨u, hlines, ⟨hm, -, hplug⟩, hin, hout⟩ := runsTo_rotorLines hslots (activeSlots s.mode)
    (respond 0x00 false (setReflector (reflectorForMode s.mode target.reflectorId) (setMode s.mode target)))
  have hload : exec (.ldref s.reflectorId) u = .next (respond 0x00 false (setReflector s.reflectorId u)) :=
    exec_ldref_of_fits (by rw [hm]; exact hfits)
  obtain ⟨t, hwires, hm', hid, hrot, hring, hrefl, hplug'⟩ := runsTo_plugLines hinvolution
    (target := respond 0x00 false (setReflector s.reflectorId u)) (by simpa [hplug] using hidentity)
  have hwhole := RunsTo.cons rfl (exec_setmode s.mode target) (hlines.append (.cons rfl hload hwires))
  rw [← expandSettings_writeSettings] at hwhole
  obtain ⟨rs, hrun, hclean⟩ := hwhole
  have hslot (k : Slot) : SameSlot k u t := by simp only [SameSlot, hid, hrot, hring]; exact ⟨rfl, rfl, rfl⟩
  have hactive (k : Slot) (hk : k ∈ activeSlots s.mode) : SameSlot k s t := (hin k hk).trans (hslot k)
  refine ⟨t, rs, hrun, hclean, hm'.trans hm, hrefl, hplug', hactive, fun k hk => (hout k hk).trans (hslot k),
    fun text => ?_⟩
  obtain ⟨v, w, answers, hs, ht⟩ := runWords_encWords_sameActive text (s := s) (hm'.trans hm) hrefl hplug' hactive
  exact ⟨w, v, answers, ht, hs⟩

end Sys2Proof.Machine
